-- ==== Sys2Proof/Word.lean ====
section
/-! DEFINITION. Word.lean: the value types of the GF(2^4) ECC core (R7, R8) and the names of its eight port
registers (R20). -/

namespace Sys2Proof

/-- A data word of the host port, a scalar, a bound, a cardinality or a count: `DATA_W = SW = CNT_W = 16` (R7). -/
abbrev Word := BitVec 16

/-- A field element of GF(2^4): bit i is the coefficient of x^i (R9). -/
abbrev Elt := BitVec 4

/-- A packed point, x in bits [7:4] and y in bits [3:0] (R72); also the contents of an 8-bit register. -/
abbrev Point := BitVec 8

/-- A host transaction record (R81). -/
abbrev Htx := BitVec 20

/-- The eight architectural registers, all reached through the host port (R20). -/
inductive Reg where
  | cmd | status | opa | opb | opk | opn | res | cnt
  deriving DecidableEq, Repr

end Sys2Proof
end

