-- ==== Sys2Proof/Config.lean ====
section
/-! DEFINITION. Config.lean: what is fixed when the core is built (R7, R34), and the two free values: the open
parameter `LATENCY` and the contents of the inverse ROM's invalid entry. -/

namespace Sys2Proof.Config

/-- `MODULUS`, the reduction polynomial x^4 + x + 1, as an 8-bit value (R7, R111). -/
def modulus : BitVec 8 := 0x13#8

/-- `CURVE_A`, the coefficient the point formulas read (R7, R34). -/
def curveA : Elt := 0x8#4

/-- `CURVE_B`, the constant term of the curve: it defines "on the curve" (R130) and no command reads it (R7). -/
def curveB : Elt := 0x9#4

/-- FREE VALUE. `LATENCY` (R7, R218, D22): how many host transactions come between the issue numbered `n` and its
COMPLETE, where `State.latencies` does not say. It may differ from one command to the next and may be zero. No body:
whatever is proved with it holds for every latency (log 1). -/
opaque latency : Nat → Nat

/-- FREE VALUE. The four value bits of ROM_INV's entry 0, whose validity bit is 0 and whose value R33 gives as "none".
No command reads them (R115, R136); no body, so nothing can be proved from them (log 11). -/
opaque romInvalidValue : Elt

end Sys2Proof.Config
end

