-- ==== Sys2Proof/Machine/State.lean ====
section
/-! DEFINITION. Machine/State.lean: what the core holds (10_state.md), beside what the model holds of the two agents
outside it, the host and the moment of COMPLETE; the reasons a step can stop; the state after reset. -/

namespace Sys2Proof.Machine

/-- The fields of STATUS that are storage (R23). Bits [15:6] are reserved and always read 0 (R23): `Status.word`
supplies them. -/
structure Status where
  /-- BUSY, bit 0: a command has been issued and has not completed (R24). -/
  busy : Bool
  /-- DONE, bit 1: the last issued command has completed (R25). -/
  done : Bool
  /-- ERR, bits [4:2]: the error code of the most recently completed command (R26). -/
  err : BitVec 3
  /-- ISGEN, bit 5: the generator verdict of the last completed ORDER (R27). -/
  isgen : Bool
  deriving DecidableEq, Repr

/-- What the world outside the core does at its port, one item of the host's program or a RESET. -/
inductive HostAction where
  /-- One port transaction, given by its record (R70, R81). -/
  | htx (r : Htx)
  /-- The loop WAIT: read STATUS, again while bit 0 is 1 (R83). -/
  | waitBusy
  /-- The loop that polls DONE for the host's last CMD write: read STATUS, again while bit 1 is 0, and for ever if that
  write was dropped (R59, R217; log 17). -/
  | waitDone
  /-- The external event RESET (R210). -/
  | reset
  deriving DecidableEq, Repr

/-- The machine. The first thirteen fields are the core's (R20, R23, R31); the last six fields are the
model's own and hold the outside agents (log 3). -/
structure State where
  /-- CMD, the last command word issued (R22). -/
  cmd : Word
  /-- STATUS (R23). -/
  status : Status
  /-- OPA, first operand (R28). -/
  opa : BitVec 8
  /-- OPB, second operand (R28). -/
  opb : BitVec 8
  /-- OPK, scalar or iteration bound (R29). -/
  opk : Word
  /-- OPN, group cardinality (R30). -/
  opn : Word
  /-- RES, result of a field, point or scalar command (R32). -/
  res : BitVec 8
  /-- CNT, the order ORDER found (R32). -/
  cnt : Word
  /-- lat[CMD] (R31). -/
  latCmd : Word
  /-- lat[A] (R31). -/
  latA : BitVec 8
  /-- lat[B] (R31). -/
  latB : BitVec 8
  /-- lat[K] (R31). -/
  latK : Word
  /-- lat[N] (R31). -/
  latN : Word
  /-- MODEL: what the host and RESET do next, oldest first (R58, R70; log 4). -/
  pending : List HostAction
  /-- MODEL: the values RD has returned to the host, newest first (R82; log 9). -/
  reads : List Word
  /-- MODEL: while BUSY, the host transactions still to come before COMPLETE (R218; log 1). -/
  due : Nat
  /-- MODEL: the latencies of the commands issued next, oldest first; after them `Config.latency` (R218; log 1). -/
  latencies : List Nat
  /-- MODEL: how many commands have been issued, the argument of `Config.latency` (log 1). -/
  issues : Nat
  /-- MODEL: the host's last CMD write was dropped (R97), so that a poll on DONE waits for a command that was never
  issued (R217; log 17). No read shows it (R97). -/
  cmdLost : Bool
  deriving DecidableEq, Repr

/-- Why the machine stops with a fault. No constructor: no rule of the spec stops the core. It has no trap (R193),
every transaction is legal (R81, R51) and every command completes (R98, R136, R220). -/
inductive Fault where
  deriving DecidableEq, Repr

/-- Why the machine gives an instruction no meaning. -/
inductive Refusal where
  /-- Raised by `exec` for an instruction that has no meaning yet; none is left. Safe: nothing is claimed about it. -/
  | notModelled (mnemonic : String)
  deriving DecidableEq, Repr

/-- STATUS after reset: 0x0000 (R36). -/
def Status.reset : Status := { busy := false, done := false, err := 0#3, isgen := false }

/-- The machine right after reset (R36, R210). The latches are unspecified there and take the value 0 by choice
(log 2); the model's own fields are empty (log 3). -/
def State.reset : State where
  cmd := 0x0000#16
  status := Status.reset
  opa := 0x00#8
  opb := 0x00#8
  opk := 0x0000#16
  opn := 0x0000#16
  res := 0x00#8
  cnt := 0x0000#16
  latCmd := 0x0000#16
  latA := 0x00#8
  latB := 0x00#8
  latK := 0x0000#16
  latN := 0x0000#16
  pending := []
  reads := []
  due := 0
  latencies := []
  issues := 0
  cmdLost := false

end Sys2Proof.Machine
end

