-- ==== Sys2Proof/Machine/Flags.lean ====
section
/-! DEFINITION. Machine/Flags.lean: STATUS, the core's only flags (R37): its error codes, the word a read returns, the
generator verdict, and its values at issue and at completion. -/

namespace Sys2Proof.Machine

/-! ## Error codes (R26, R191) -/

/-- NONE. -/
def errNone : BitVec 3 := 0#3

/-- NO_INVERSE, raised by FINV of 0 only (R191). -/
def errNoInverse : BitVec 3 := 1#3

/-- ORDER_NOT_FOUND, raised by ORDER only (R191). -/
def errOrderNotFound : BitVec 3 := 2#3

/-- ILLEGAL_CMD, raised by an illegal command word (R191). -/
def errIllegalCmd : BitVec 3 := 3#3

/-! ## STATUS -/

/-- The 16 bits a read of STATUS returns: `{10'b0, ISGEN, ERR, DONE, BUSY}` (R93). -/
def Status.word (st : Status) : Word :=
  0#10 ++ (BitVec.ofBool st.isgen ++ (st.err ++ (BitVec.ofBool st.done ++ BitVec.ofBool st.busy)))

/-- STATUS at issue: BUSY set, DONE and ERR cleared, ISGEN kept (R94). -/
def Status.issued (st : Status) : Status := { st with busy := true, done := false, err := errNone }

/-- STATUS at completion with error code `code`: BUSY cleared, DONE set, ERR written, ISGEN kept (R96, R102, R190;
log 7). -/
def Status.completed (st : Status) (code : BitVec 3) : Status := { st with busy := false, done := true, err := code }

/-- The generator verdict `found && n == N` (R172), with `none` for an order that was not found. -/
def generatorVerdict (order : Option Nat) (cardinality : Word) : Bool :=
  match order with
  | some n => BitVec.ofNat 16 n == cardinality
  | none => false

end Sys2Proof.Machine
end

