-- ==== Sys2Proof/Machine/Operands.lean ====
section
/-! DEFINITION. Machine/Operands.lean: how operands are taken from the latches and results assembled (R72 to R76). A
command computes only from its latches, never from the operand registers (R31, R95). -/

namespace Sys2Proof.Machine

/-! ## Points (R72, R131) -/

/-- `P.x = p[7:4]` (R72). -/
def ptX (p : Point) : Elt := p.extractLsb' 4 4

/-- `P.y = p[3:0]` (R72). -/
def ptY (p : Point) : Elt := p.extractLsb' 0 4

/-- `mkpt(x, y)`: x in the upper four bits, y in the lower (R72). -/
def mkpt (x y : Elt) : Point := x ++ y

/-- INF, the point at infinity: the byte 0x00 (R72). -/
def inf : Point := 0x00#8

/-- `is_inf(P)`: both coordinates are 0 (R131). -/
def isInf (p : Point) : Bool := ptX p == 0#4 && ptY p == 0#4

/-! ## Operands of the command in flight (R73, R74, R75, R76) -/

/-- First field-element operand, `lat[A][3:0]`; bits [7:4] are ignored (R73). -/
def State.eltA (s : State) : Elt := s.latA.extractLsb' 0 4

/-- Second field-element operand, `lat[B][3:0]` (R73). -/
def State.eltB (s : State) : Elt := s.latB.extractLsb' 0 4

/-- First point operand, `lat[A]` (R76). -/
def State.pointA (s : State) : Point := s.latA

/-- Second point operand, `lat[B]` (R76). -/
def State.pointB (s : State) : Point := s.latB

/-- The scalar `d = lat[K]` of SMULH and SMULL (R74). -/
def State.scalar (s : State) : Word := s.latK

/-- The iteration bound `M = lat[K]` of ORDER (R74). -/
def State.bound (s : State) : Word := s.latK

/-- The cardinality `N = lat[N]` of ORDER (R75). -/
def State.cardinality (s : State) : Word := s.latN

/-! ## Results -/

/-- A field-element result as RES holds it: `zext_8` (R73). -/
def eltResult (r : Elt) : BitVec 8 := r.setWidth 8

end Sys2Proof.Machine
end

