-- ==== Sys2Proof/Machine/Ops.lean ====
section
/-! DEFINITION. Machine/Ops.lean: the operations on registers that the instructions share: reading and writing a port
register (R52, R92, R93), issue (R94), completion with or without an error (R96, R190), and RESET (R210). The core has
no memory (R50) and no exception entry (R193): `State.finish` stands where another machine takes an exception. -/

namespace Sys2Proof.Machine

/-! ## Reading (R93) -/

/-- `PortRead`: the 16 bits a read of a register returns; 8-bit registers are zero-extended (R52, R93). -/
def State.portRead (s : State) : Reg → Word
  | .cmd => s.cmd
  | .status => s.status.word
  | .opa => s.opa.setWidth 16
  | .opb => s.opb.setWidth 16
  | .opk => s.opk
  | .opn => s.opn
  | .res => s.res.setWidth 16
  | .cnt => s.cnt

/-- A read's value goes to the host; nothing of the core changes (R56; log 9). -/
def State.logRead (s : State) (v : Word) : State := { s with reads := v :: s.reads }

/-! ## Issue (R94) -/

/-- The registers' part of `ISSUE(v)`: CMD, the five latches and STATUS (R94). -/
def State.issueRegs (s : State) (v : Word) : State :=
  { s with cmd := v, latCmd := v, latA := s.opa, latB := s.opb, latK := s.opk, latN := s.opn,
           status := s.status.issued }

/-- The latency of the command issued now: the next of `latencies`, and after them the free value (R218; log 1). -/
def State.nextLatency (s : State) : Nat :=
  match s.latencies with
  | n :: _ => n
  | [] => Config.latency s.issues

/-- `ISSUE(v)`, with the moment of its COMPLETE drawn (R94, R218). -/
def State.issue (s : State) (v : Word) : State :=
  { s.issueRegs v with due := s.nextLatency, latencies := s.latencies.tail, issues := s.issues + 1 }

/-! ## Writing (R92) -/

/-- A write to CMD: it issues while idle and is dropped while busy (R92, R94, R97). -/
def State.writeCmd (s : State) (v : Word) : State := if s.status.busy then s else s.issue v

/-- `PortWrite` (R92): OPA and OPB take the low byte (R52), the read-only registers take nothing. -/
def State.portWrite (s : State) (r : Reg) (v : Word) : State :=
  match r with
  | .cmd => s.writeCmd v
  | .status => s
  | .opa => { s with opa := v.setWidth 8 }
  | .opb => { s with opb := v.setWidth 8 }
  | .opk => { s with opk := v }
  | .opn => { s with opn := v }
  | .res => s
  | .cnt => s

/-! ## Completion (R96) -/

/-- RES takes a result (R102). -/
def State.setRes (s : State) (v : BitVec 8) : State := { s with res := v }

/-- CNT and ISGEN take ORDER's result (R102, R171). -/
def State.setOrder (s : State) (n : Word) (verdict : Bool) : State :=
  { s with cnt := n, status := { s.status with isgen := verdict } }

/-- The end of COMPLETE: `signal ERR(code)`, BUSY cleared and DONE set (R96, R190). The one operation through which a
command reports an error; it saves nothing and transfers no control (R193). -/
def State.finish (s : State) (code : BitVec 3) : State := { s with status := s.status.completed code }

/-! ## RESET (R210) -/

/-- RESET: every register as in `State.reset`, the command in flight discarded. The host's remaining actions, what it
has read and the latencies to come belong to the outside and stay; no CMD write since this reset was dropped (log 12,
17). -/
def State.resetCore (s : State) : State :=
  { State.reset with pending := s.pending, reads := s.reads, latencies := s.latencies, issues := s.issues }

end Sys2Proof.Machine
end

