-- ==== Sys2Proof/Machine/Field.lean ====
section
/-! DEFINITION. Machine/Field.lean: the GF(2^4) multiplier and the inverse lookup engine, with the commands FMUL and
FINV (41_field.md). -/

namespace Sys2Proof.Machine

/-! ## The multiplier (R111) -/

/-- First loop of `gf_mul`: the carry-less product, `p ^ (zext_8(a) << i)` for each set bit i of b (R111). -/
def clMul (a b : Elt) : BitVec 8 :=
  [0, 1, 2, 3].foldl (fun p i => if b.getLsbD i then p ^^^ (a.setWidth 8 <<< i) else p) 0#8

/-- Second loop of `gf_mul`: from the highest bit down, each set bit j of 7 to 4 is cleared by the shifted modulus
(R111). -/
def gfReduce (p : BitVec 8) : BitVec 8 :=
  [7, 6, 5, 4].foldl (fun p j => if p.getLsbD j then p ^^^ (Config.modulus <<< (j - 4)) else p) p

/-- `gf_mul(a, b)` (R111). -/
def gfMul (a b : Elt) : Elt := (gfReduce (clMul a b)).extractLsb' 0 4

/-! ## The inverse ROM (R33, R114, R115) -/

/-- One entry of ROM_INV: a validity bit and a 4-bit value (R33). -/
structure RomEntry where
  valid : Bool
  value : Elt
  deriving DecidableEq, Repr

/-- The values of entries 1 to 15 of ROM_INV (R33). -/
def romValues : List Elt :=
  [0x1#4, 0x9#4, 0xE#4, 0xD#4, 0xB#4] ++ [0x7#4, 0x6#4, 0xF#4, 0x2#4, 0xC#4] ++ [0x5#4, 0xA#4, 0x4#4, 0x3#4, 0x8#4]

/-- ROM_INV (R33): the validity bit of entry 0 is 0 and its value bits are free (log 11). -/
def romInv (a : Elt) : RomEntry :=
  match a.toNat with
  | 0 => { valid := false, value := Config.romInvalidValue }
  | n + 1 => { valid := true, value := romValues.getD n Config.romInvalidValue }

/-- `gf_inv(a)`: no value where the entry is not valid (R115). -/
def gfInv (a : Elt) : Option Elt := if (romInv a).valid then some (romInv a).value else none

/-- The value bits of a ROM entry, as the point adder and doubler read them; they never read entry 0 (R136). -/
def romValue (a : Elt) : Elt := (romInv a).value

/-! ## Commands -/

/-- FMUL (R110). -/
def execFmul (s : State) : Host.Outcome State Fault Refusal :=
  .next ((s.setRes (eltResult (gfMul s.eltA s.eltB))).finish errNone)

/-- FINV: RES = 0x00 and NO_INVERSE for 0 (R113). -/
def execFinv (s : State) : Host.Outcome State Fault Refusal :=
  match gfInv s.eltA with
  | some r => .next ((s.setRes (eltResult r)).finish errNone)
  | none => .next ((s.setRes 0x00#8).finish errNoInverse)

end Sys2Proof.Machine
end

