-- ==== Sys2Proof/Machine/Curve.lean ====
section
/-! DEFINITION. Machine/Curve.lean: the point adder and the point doubler, with the commands PADD and PDBL
(42_curve.md). Operands are not checked against the curve (R139). -/

namespace Sys2Proof.Machine

/-! ## The doubler and the adder, over what the inverse ROM's outputs are -/

/-- `pt_dbl(P)` (R133), with `inv` for the ROM's value outputs. -/
def ptDblWith (inv : Elt → Elt) (p : Point) : Point :=
  if ptX p = 0#4 then inf
  else
    let lam := ptX p ^^^ gfMul (ptY p) (inv (ptX p))
    let x3 := gfMul lam lam ^^^ lam ^^^ Config.curveA
    let y3 := gfMul (ptX p) (ptX p) ^^^ gfMul lam x3 ^^^ x3
    mkpt x3 y3

/-- `pt_add(P1, P2)` (R132), the cases tested in the rule's order, with `inv` for the ROM's value outputs. -/
def ptAddWith (inv : Elt → Elt) (p q : Point) : Point :=
  if isInf p then q
  else if isInf q then p
  else if ptX p = ptX q ∧ ptY p = ptY q then ptDblWith inv p
  else if ptX p = ptX q ∧ ptY p ≠ ptY q then inf
  else
    let dx := ptX p ^^^ ptX q
    let dy := ptY p ^^^ ptY q
    let lam := gfMul dy (inv dx)
    let x3 := gfMul lam lam ^^^ lam ^^^ ptX p ^^^ ptX q ^^^ Config.curveA
    let y3 := gfMul lam (ptX p ^^^ x3) ^^^ x3 ^^^ ptY p
    mkpt x3 y3

/-- `pt_dbl(P)` (R133). -/
def ptDbl (p : Point) : Point := ptDblWith romValue p

/-- `pt_add(P1, P2)` (R132). -/
def ptAdd (p q : Point) : Point := ptAddWith romValue p q

/-! ## The curve (R130): a definition for statements, computed by no command -/

/-- The constant term of the one curve `y² + xy = x³ + A·x² + b` a pair of coordinates lies on (R138). -/
def curveTerm (p : Point) : Elt :=
  gfMul (ptY p) (ptY p) ^^^ gfMul (ptX p) (ptY p) ^^^ gfMul (gfMul (ptX p) (ptX p)) (ptX p)
    ^^^ gfMul Config.curveA (gfMul (ptX p) (ptX p))

/-- `on_curve(P)` (R130): the equation with `CURVE_B`; INF is not a point of it. -/
def onCurve (p : Point) : Bool :=
  !isInf p &&
    (gfMul (ptY p) (ptY p) ^^^ gfMul (ptX p) (ptY p)
      == gfMul (gfMul (ptX p) (ptX p)) (ptX p) ^^^ gfMul Config.curveA (gfMul (ptX p) (ptX p)) ^^^ Config.curveB)

/-! ## Commands -/

/-- PADD (R134). -/
def execPadd (s : State) : Host.Outcome State Fault Refusal :=
  .next ((s.setRes (ptAdd s.pointA s.pointB)).finish errNone)

/-- PDBL (R135). -/
def execPdbl (s : State) : Host.Outcome State Fault Refusal :=
  .next ((s.setRes (ptDbl s.pointA)).finish errNone)

end Sys2Proof.Machine
end

