-- ==== Sys2Proof/Machine/Illegal.lean ====
section
/-! DEFINITION. Machine/Illegal.lean: the arm of an illegal command word (R78, R98). -/

namespace Sys2Proof.Machine

/-- ILLEGAL: ERR = ILLEGAL_CMD, no result register written, whatever the word's fields are (R98). -/
def execIllegal (_rsv : BitVec 12) (_op : BitVec 4) (s : State) : Host.Outcome State Fault Refusal :=
  .next (s.finish errIllegalCmd)

end Sys2Proof.Machine
end

