-- ==== Sys2Proof/Machine/Order.lean ====
section
/-! DEFINITION. Machine/Order.lean: the group-order detector, with the command ORDER (44_order.md). -/

namespace Sys2Proof.Machine

/-- The loop of `order_of` with `n` multiples still to examine: `acc = c·G` (R170). -/
def orderLoop (g : Point) : Nat → Point → Nat → Option Nat
  | 0, _, _ => none
  | n + 1, acc, c => if isInf acc then some c else orderLoop g n (ptAdd acc g) (c + 1)

/-- `order_of(G, M)`: `some n` for (true, n), `none` for (false, 0); `while c <= M` from c = 1 examines M multiples
(R170). -/
def orderOf (g : Point) (m : Word) : Option Nat := orderLoop g m.toNat g 1

/-- ORDER: CNT and ISGEN always, ORDER_NOT_FOUND when no order up to M is found (R171, R172). -/
def execOrder (s : State) : Host.Outcome State Fault Refusal :=
  let found := orderOf s.pointA s.bound
  let verdict := generatorVerdict found s.cardinality
  match found with
  | some n => .next ((s.setOrder (BitVec.ofNat 16 n) verdict).finish errNone)
  | none => .next ((s.setOrder 0x0000#16 verdict).finish errOrderNotFound)

end Sys2Proof.Machine
end

