-- ==== Sys2Proof/Machine/Port.lean ====
section
/-! DEFINITION. Machine/Port.lean: the host's two transactions WR and RD (R91, R92, R93). -/

namespace Sys2Proof.Machine

/-- WR: it never fails and never reports anything (R92). -/
def execWr (reg : Reg) (data : Word) (s : State) : Host.Outcome State Fault Refusal := .next (s.portWrite reg data)

/-- RD: the register's value goes to the host (R93). -/
def execRd (reg : Reg) (s : State) : Host.Outcome State Fault Refusal := .next (s.logRead (s.portRead reg))

end Sys2Proof.Machine
end

