-- ==== Sys2Proof/Machine/Scalar.lean ====
section
/-! DEFINITION. Machine/Scalar.lean: the scalar-multiplication engine in its two traversal orders, with the commands
SMULH and SMULL (43_scalar.md). -/

namespace Sys2Proof.Machine

/-- The largest i in 0..15 with d[i] = 1, for d ≠ 0 (R150). -/
def topBit (d : Word) : Nat := (List.range 16).foldl (fun t i => if d.getLsbD i then i else t) 0

/-- The loop of `smul_h2l` over the bits below `i`, downwards: double, then add P if the bit is 1 (R150). -/
def h2lLoop (p : Point) (d : Word) : Nat → Point → Point
  | 0, acc => acc
  | i + 1, acc => h2lLoop p d i (if d.getLsbD i then ptAdd (ptDbl acc) p else ptDbl acc)

/-- `smul_h2l(P, d)`: the zero scalar first, then from the topmost set bit down (R150). -/
def smulH2l (p : Point) (d : Word) : Point := if d = 0#16 then inf else h2lLoop p d (topBit d) p

/-- The loop of `smul_l2h` over `n` bits from bit `i` upwards: add the base if the bit is 1, double the base (R151). -/
def l2hLoop (d : Word) : Nat → Nat → Point → Point → Point
  | 0, _, acc, _ => acc
  | n + 1, i, acc, base => l2hLoop d n (i + 1) (if d.getLsbD i then ptAdd acc base else acc) (ptDbl base)

/-- `smul_l2h(P, d)`: all 16 bits, least significant first (R151). -/
def smulL2h (p : Point) (d : Word) : Point := l2hLoop d 16 0 inf p

/-- SMULH (R152). -/
def execSmulh (s : State) : Host.Outcome State Fault Refusal :=
  .next ((s.setRes (smulH2l s.pointA s.scalar)).finish errNone)

/-- SMULL (R153). -/
def execSmull (s : State) : Host.Outcome State Fault Refusal :=
  .next ((s.setRes (smulL2h s.pointA s.scalar)).finish errNone)

end Sys2Proof.Machine
end

