-- ==== Sys2Proof/Syntax.lean ====
section
/-! DEFINITION. Syntax.lean: the instructions, one constructor per row of the opcode table. The seven commands and
the illegal word are what the engine completes (R96); `wr` and `rd` are the host's two transactions (R91). A command
has no operand fields: its operands are the latches (R71, R76). -/

namespace Sys2Proof

/-- One constructor per row of spec/opcode_table.json (R77, R78, R81). -/
inductive Instr where
  /-- FMUL, command word 0x0001: multiply two field elements (R110). -/
  | fmul
  /-- FINV, command word 0x0002: look up an inverse (R113). -/
  | finv
  /-- PADD, command word 0x0003: add two points (R134). -/
  | padd
  /-- PDBL, command word 0x0004: double a point (R135). -/
  | pdbl
  /-- SMULH, command word 0x0005: scalar multiplication, high-to-low (R152). -/
  | smulh
  /-- SMULL, command word 0x0006: scalar multiplication, low-to-high (R153). -/
  | smull
  /-- ORDER, command word 0x0007: order of a point and generator verdict (R171). -/
  | order
  /-- ILLEGAL, every other command word, with its fields RSV and OP (R78, R98). -/
  | illegal (rsv : BitVec 12) (op : BitVec 4)
  /-- WR, HTX record with W = 1: write `data` to register `reg` (R92). -/
  | wr (reg : Reg) (data : Word)
  /-- RD, HTX record with W = 0: read register `reg` (R93). -/
  | rd (reg : Reg)
  deriving DecidableEq, Repr

end Sys2Proof
end

