-- ==== Sys2Proof/Machine/Dispatch.lean ====
section
/-! DEFINITION. Machine/Dispatch.lean: one arm per instruction. For a command the arm is COMPLETE with that command in
flight (R96); when COMPLETE may happen is decided by the step, not here (log 16). -/

namespace Sys2Proof.Machine

def exec (i : Instr) (s : State) : Host.Outcome State Fault Refusal :=
  match i with
  | .fmul => Sys2Proof.Machine.execFmul s
  | .finv => Sys2Proof.Machine.execFinv s
  | .padd => Sys2Proof.Machine.execPadd s
  | .pdbl => Sys2Proof.Machine.execPdbl s
  | .smulh => Sys2Proof.Machine.execSmulh s
  | .smull => Sys2Proof.Machine.execSmull s
  | .order => Sys2Proof.Machine.execOrder s
  | .illegal rsv op => Sys2Proof.Machine.execIllegal rsv op s
  | .wr reg data => Sys2Proof.Machine.execWr reg data s
  | .rd reg => Sys2Proof.Machine.execRd reg s

end Sys2Proof.Machine
end

