-- ==== Sys2Proof/WellFormed.lean ====
section
/-! DEFINITION. WellFormed.lean: which terms of `Instr` stand for an encoding. Only the illegal word has a condition:
its fields are not those of one of the seven legal words (R77, R78). Every register index and every data word is a
legal transaction (R51, R81). -/

namespace Sys2Proof

/-- The fields RSV and OP of a legal command word: RSV = 0 and OP from 1 to 7 (R77). -/
def legalFields (rsv : BitVec 12) (op : BitVec 4) : Bool :=
  rsv == 0#12 && (1 ≤ op.toNat && op.toNat ≤ 7)

/-- The check on instructions: an `illegal` term holds the fields of an illegal word (R78). -/
def Instr.wellFormed : Instr → Bool
  | .illegal rsv op => !legalFields rsv op
  | .fmul | .finv | .padd | .pdbl | .smulh | .smull | .order => true
  | .wr _ _ => true
  | .rd _ => true

/-- `i.WellFormed`: some encoding of the spec stands for `i`. -/
abbrev Instr.WellFormed (i : Instr) : Prop := i.wellFormed = true

end Sys2Proof
end

