-- ==== Sys2Proof/Decode.lean ====
section
/-! DEFINITION. Decode.lean: from bits to instructions and back. There are two encoded objects, each of one length
(R70, R80): the 16-bit command word (R71, R77, R78) and the 20-bit host transaction record (R81). Every word and every
record decodes; only a number that is neither is rejected, by name. -/

namespace Sys2Proof

/-! ## Register indices (R51) -/

/-- The register at a port index (R51): every index is decoded. -/
def regOfIndex (i : BitVec 3) : Reg :=
  match i.toNat with
  | 0 => .cmd
  | 1 => .status
  | 2 => .opa
  | 3 => .opb
  | 4 => .opk
  | 5 => .opn
  | 6 => .res
  | _ => .cnt

/-- The port index of a register (R20, R51). -/
def indexOfReg : Reg → BitVec 3
  | .cmd => 0#3
  | .status => 1#3
  | .opa => 2#3
  | .opb => 3#3
  | .opk => 4#3
  | .opn => 5#3
  | .res => 6#3
  | .cnt => 7#3

/-! ## Decoding -/

/-- RSV, bits 15 to 4 of a command word (R71). -/
def cmdRsv (w : Word) : BitVec 12 := w.extractLsb' 4 12

/-- OP, bits 3 to 0 of a command word (R71). -/
def cmdOp (w : Word) : BitVec 4 := w.extractLsb' 0 4

/-- The command a command word stands for: one of the seven legal words, or illegal (R77, R78). -/
def decodeCommand (w : Word) : Instr :=
  match w.toNat with
  | 1 => .fmul
  | 2 => .finv
  | 3 => .padd
  | 4 => .pdbl
  | 5 => .smulh
  | 6 => .smull
  | 7 => .order
  | _ => .illegal (cmdRsv w) (cmdOp w)

/-- W, bit 19 of a record: 1 for a write (R81). -/
def htxW (r : Htx) : Bool := r.getLsbD 19

/-- IDX, bits 18 to 16 of a record (R81). -/
def htxIdx (r : Htx) : BitVec 3 := r.extractLsb' 16 3

/-- DATA, bits 15 to 0 of a record (R81). -/
def htxData (r : Htx) : Word := r.extractLsb' 0 16

/-- The transaction a record stands for; a read ignores DATA (R81). -/
def decodeHtx (r : Htx) : Instr :=
  if htxW r then .wr (regOfIndex (htxIdx r)) (htxData r) else .rd (regOfIndex (htxIdx r))

/-- An encoded object: a command word or a host transaction record (R70). -/
inductive Encoded where
  | command (w : Word)
  | htx (r : Htx)
  deriving DecidableEq, Repr

/-- Why a number of bits is no encoded object. -/
inductive Reject where
  /-- The length belongs to no encoded object: R70 gives 16 and 20 bits. -/
  | noSuchLength (nbits : Nat)
  /-- The value has a bit above the object's 16 or 20. -/
  | tooWide (nbits value : Nat)
  deriving DecidableEq, Repr

/-- Decoding an encoded object (R70): total, since every word and every record has a meaning (R79, R81). -/
def decode : Encoded → Instr
  | .command w => decodeCommand w
  | .htx r => decodeHtx r

/-- The encoded object in `nbits` bits of value `w`: up to two bytes a command word, three bytes a record, the bits
above the given ones being zero (log 13). -/
def frameBits (nbits w : Nat) : Except Reject Encoded :=
  if nbits ≤ 16 then
    if w < 2 ^ 16 then .ok (.command (BitVec.ofNat 16 w)) else .error (.tooWide nbits w)
  else if nbits ≤ 24 then
    if w < 2 ^ 20 then .ok (.htx (BitVec.ofNat 20 w)) else .error (.tooWide nbits w)
  else .error (.noSuchLength nbits)

/-- Decoding raw bits, rejecting by name what is no encoded object. -/
def decodeBits (nbits w : Nat) : Except Reject Instr :=
  match frameBits nbits w with
  | .ok e => .ok (decode e)
  | .error r => .error r

/-- The instruction the decoder reads from an opcode-table row's bits; none where it rejects them. -/
def decodeTableWord (nbits w : Nat) : Option Instr :=
  match decodeBits nbits w with
  | .ok i => some i
  | .error _ => none

/-! ## Encoding -/

/-- A command word from its fields RSV and OP (R71). -/
def packCommand (rsv : BitVec 12) (op : BitVec 4) : Word := rsv ++ op

/-- A record from its fields W, IDX and DATA (R81). -/
def packHtx (w : Bool) (idx : BitVec 3) (data : Word) : Htx := BitVec.ofBool w ++ (idx ++ data)

/-- The encoded object of an instruction (R77, R78, R81); a read's DATA is written as 0. -/
def encode : Instr → Encoded
  | .fmul => .command 0x0001#16
  | .finv => .command 0x0002#16
  | .padd => .command 0x0003#16
  | .pdbl => .command 0x0004#16
  | .smulh => .command 0x0005#16
  | .smull => .command 0x0006#16
  | .order => .command 0x0007#16
  | .illegal rsv op => .command (packCommand rsv op)
  | .wr reg data => .htx (packHtx true (indexOfReg reg) data)
  | .rd reg => .htx (packHtx false (indexOfReg reg) 0#16)

end Sys2Proof
end

