-- ==== Sys2Proof/Machine/Schedule.lean ====
section
/-! DEFINITION. Machine/Schedule.lean: which agent moves next and what it runs (R11, R58). Every execution is an
interleaving of host transactions, COMPLETE steps and RESET events; here the interleaving is read from State. -/

namespace Sys2Proof.Machine

/-- COMPLETE is the next step: it is enabled (BUSY = 1, R96), and either its latency has passed (R218) or it is the
only enabled step (R220; log 6). -/
def State.completes (s : State) : Bool := s.status.busy && (s.due == 0 || s.pending.isEmpty)

/-- The state in which a host transaction runs: the host has `rest` still to do, and one transaction fewer stands
between the command in flight and its COMPLETE (R218). -/
def State.hostTurn (s : State) (rest : List HostAction) : State := { s with pending := rest, due := s.due - 1 }

/-- Whether a WAIT goes round again: bit 0 of what it read is 1 (R83). -/
def pollsBusyAgain (v : Word) : Bool := v.getLsbD 0

/-- Whether a poll on DONE goes round again: bit 1 of what it read is 0, or the host's last CMD write was dropped
(`lost`), when the DONE it reads is an earlier command's and the poll has no end (R217, I11; log 17). -/
def pollsDoneAgain (v : Word) (lost : Bool) : Bool := !v.getLsbD 1 || lost

/-- The transaction writes CMD. -/
def writesCmd : Instr → Bool
  | .fmul | .finv | .padd | .pdbl | .smulh | .smull | .order => false
  | .illegal _ _ => false
  | .wr reg _ => reg == .cmd
  | .rd _ => false

/-- The model notes of each CMD write whether it comes while a command is in flight, that is, is dropped (R97, R217;
log 17). -/
def State.noteCmdWrite (s : State) (i : Instr) : State :=
  { s with cmdLost := if writesCmd i then s.status.busy else s.cmdLost }

/-- What the next step is: an instruction and the state it runs in, or a state reached without one. -/
inductive Turn where
  | run (i : Instr) (s : State)
  | stay (s : State)
  deriving DecidableEq, Repr

/-- The next step (R58): COMPLETE of lat[CMD] (R96), or the host's next transaction, or a poll's read of STATUS (R83,
R217), or RESET (R210), or nothing while the core is idle and no action is pending (log 5). -/
def State.turn (s : State) : Turn :=
  if s.completes then .run (decodeCommand s.latCmd) s
  else
    match s.pending with
    | [] => .stay s
    | .htx r :: rest => .run (decodeHtx r) ((s.hostTurn rest).noteCmdWrite (decodeHtx r))
    | .waitBusy :: rest =>
      .run (.rd .status) (s.hostTurn (if pollsBusyAgain (s.portRead .status) then .waitBusy :: rest else rest))
    | .waitDone :: rest =>
      .run (.rd .status) (s.hostTurn
        (if pollsDoneAgain (s.portRead .status) s.cmdLost then .waitDone :: rest else rest))
    | .reset :: rest => .stay { s.resetCore with pending := rest }

/-- `s` with the encoded object placed where `turn` takes its next instruction: a record as the host's next
transaction, a command word in flight as ISSUE leaves it (R94) with its COMPLETE due now (log 4). -/
def State.placeEncoded (s : State) : Encoded → State
  | .htx r => { s with pending := .htx r :: s.pending, due := s.due + 1 }
  | .command w => { s.issueRegs w with due := 0 }

/-- `s` with the object of `nbits` bits of value `w` placed as the next instruction; `s` where there is no such
object. -/
def State.placeBits (s : State) (nbits w : Nat) : State :=
  match frameBits nbits w with
  | .ok e => s.placeEncoded e
  | .error _ => s

end Sys2Proof.Machine
end

