-- ==== Sys2Proof/Machine/Step.lean ====
section
/-! DEFINITION. Machine/Step.lean: one step of the machine. -/

namespace Sys2Proof.Machine

/-- One step: the next turn's instruction is executed, or the next turn's state is taken (R11, R58). -/
def step (s : State) : Host.Outcome State Fault Refusal :=
  match s.turn with
  | .run i t => exec i t
  | .stay t => .next t

/-- `s` with an opcode-table row's bits placed where `step` takes its next instruction. -/
def State.withFetchWord (s : State) (nbits w : Nat) : State := s.placeBits nbits w

end Sys2Proof.Machine
end

