-- ==== Sys2Proof/Machine/HostProgram.lean ====
section
/-! DEFINITION. Machine/HostProgram.lean: the pseudo-instructions of a host program and their exact expansions (R83),
which are notation of the host, since the core sees only the transactions; and the end of a host program with the
registers it leaves (R103). -/

namespace Sys2Proof.Machine

/-- The seven legal commands, as ISSUE names them (R77, R83). -/
inductive Command where
  | fmul | finv | padd | pdbl | smulh | smull | order
  deriving DecidableEq, Repr

/-- The instruction a command name stands for (R77). -/
def Command.instr : Command → Instr
  | .fmul => .fmul
  | .finv => .finv
  | .padd => .padd
  | .pdbl => .pdbl
  | .smulh => .smulh
  | .smull => .smull
  | .order => .order

/-- The command word of a command name (R77). -/
def Command.word : Command → Word
  | .fmul => 0x0001#16
  | .finv => 0x0002#16
  | .padd => 0x0003#16
  | .pdbl => 0x0004#16
  | .smulh => 0x0005#16
  | .smull => 0x0006#16
  | .order => 0x0007#16

/-- A pseudo-instruction (R83), its operands the 16-bit data words its writes carry. -/
inductive Pseudo where
  | issue (c : Command)
  | wait
  | fmul (a b : Word)
  | finv (a : Word)
  | padd (p q : Word)
  | pdbl (p : Word)
  | smulh (p d : Word)
  | smull (p d : Word)
  | order (g m n : Word)
  deriving DecidableEq, Repr

/-- The line `WR reg, v` (R82). -/
def wrAction (reg : Reg) (v : Word) : HostAction := .htx (packHtx true (indexOfReg reg) v)

/-- The line `RD reg` (R82); DATA is written as 0 (R81). -/
def rdAction (reg : Reg) : HostAction := .htx (packHtx false (indexOfReg reg) 0#16)

/-- `ISSUE c` is `WR CMD, <command word>` (R83). -/
def issueAction (c : Command) : HostAction := wrAction .cmd c.word

/-- The expansions of R83. -/
def Pseudo.expand : Pseudo → List HostAction
  | .issue c => [issueAction c]
  | .wait => [.waitBusy]
  | .fmul a b => [wrAction .opa a, wrAction .opb b, issueAction .fmul, .waitBusy]
  | .finv a => [wrAction .opa a, issueAction .finv, .waitBusy]
  | .padd p q => [wrAction .opa p, wrAction .opb q, issueAction .padd, .waitBusy]
  | .pdbl p => [wrAction .opa p, issueAction .pdbl, .waitBusy]
  | .smulh p d => [wrAction .opa p, wrAction .opk d, issueAction .smulh, .waitBusy]
  | .smull p d => [wrAction .opa p, wrAction .opk d, issueAction .smull, .waitBusy]
  | .order g m n => [wrAction .opa g, wrAction .opk m, wrAction .opn n, issueAction .order, .waitBusy]

/-! ## The end of a host program (R103) -/

/-- The action is the external event RESET, which is no transaction of the host (R11, R210). -/
def HostAction.isReset : HostAction → Bool
  | .htx _ => false
  | .waitBusy => false
  | .waitDone => false
  | .reset => true

/-- The host has no transaction left to make. -/
def State.hostDone (s : State) : Bool := s.pending.all HostAction.isReset

/-- The end of the host program pending in a state: the point right after its last transaction, that is the first state
of the run in which the host has no transaction left (R103; log 18). A COMPLETE or RESET that comes after that point is
no part of it. None where `fuel` steps do not reach it; how large `fuel` is else makes no difference. -/
def endOfProgram : Nat → State → Option State
  | 0, s => if s.hostDone then some s else none
  | fuel + 1, s =>
    if s.hostDone then some s
    else
      match step s with
      | .next t => endOfProgram fuel t
      | .fault _ => none
      | .refused _ => none

/-- The values of the eight registers, by index (R51). -/
def State.registers (s : State) : List Word :=
  [.cmd, .status, .opa, .opb, .opk, .opn, .res, .cnt].map s.portRead

/-- The end state: the eight registers at the end of the host program (R103). Where BUSY is 1 in it a command is still in
flight, and its results are not yet in RES or CNT. -/
def endState (fuel : Nat) (s : State) : Option (List Word) := (endOfProgram fuel s).map State.registers

end Sys2Proof.Machine
end

