-- ==== Sys2Proof/Safety.lean ====
section
/-! DEFINITION. Safety.lean: the terms claims are stated in. The group-theoretic multiple, the two hazards a host must
avoid (R214, R215), and the invariant of the machine's states. -/

namespace Sys2Proof.Machine

/-! ## Multiples of a point -/

/-- The n-fold sum `G + G + … + G` formed with `pt_add` from INF (R154); its first INF for n ≥ 1 is the order (R170). -/
def multiple (g : Point) : Nat → Point
  | 0 => inf
  | n + 1 => ptAdd (multiple g n) g

/-- `n` is the order of `g`: the least n ≥ 1 with n·G = INF (R170). -/
def IsOrder (g : Point) (n : Nat) : Prop := 1 ≤ n ∧ multiple g n = inf ∧ ∀ k, 1 ≤ k → k < n → multiple g k ≠ inf

/-- The group the curve of R130 makes: its finite points and INF (R130, R138). -/
def inGroup (p : Point) : Bool := isInf p || onCurve p

/-! ## Instructions by agent (R11) -/

/-- The instructions COMPLETE runs (R96); the others are the host's two transactions (R91). -/
def isCommand : Instr → Bool
  | .fmul | .finv | .padd | .pdbl | .smulh | .smull | .order => true
  | .illegal _ _ => true
  | .wr _ _ => false
  | .rd _ => false

/-- The commands whose completion writes RES (R102). -/
def writesRes : Instr → Bool
  | .fmul | .finv | .padd | .pdbl | .smulh | .smull => true
  | .order => false
  | .illegal _ _ => false
  | .wr _ _ => false
  | .rd _ => false

/-! ## Runs -/

/-- `k` steps of the machine. -/
def run (k : Nat) (s : State) : Host.Outcome State Fault Refusal := Sys2Proof.core.run k s

/-- A list of instructions executed one after another. -/
def execAll : List Instr → State → Host.Outcome State Fault Refusal
  | [], s => .next s
  | i :: is, s =>
    match exec i s with
    | .next t => execAll is t
    | .fault f => .fault f
    | .refused r => .refused r

/-- A pseudo-instruction that is a command macro: it writes operands, issues and waits (R83). -/
def Pseudo.isMacro : Pseudo → Bool
  | .issue _ => false
  | .wait => false
  | .fmul _ _ | .finv _ | .padd _ _ | .pdbl _ | .smulh _ _ | .smull _ _ | .order _ _ _ => true

/-! ## Hazards -/

/-- The next step is a CMD write that is dropped because a command is in flight (R97, R215). -/
def dropsCmdWrite (s : State) : Bool :=
  match s.turn with
  | .run (.wr .cmd _) t => t.status.busy
  | _ => false

/-- The next step reads a result register while a command is in flight, so that the value is the previous command's
(R214). -/
def readsStale (s : State) : Bool :=
  match s.turn with
  | .run (.rd .res) t => t.status.busy
  | .run (.rd .cnt) t => t.status.busy
  | _ => false

/-- A run of `k` steps from `s` in which the host meets its duties: no CMD write is dropped (R215) and no result is
read stale (R214). -/
def orderlyRun : Nat → State → Bool
  | 0, _ => true
  | k + 1, s =>
    !dropsCmdWrite s && !readsStale s &&
      match step s with
      | .next t => orderlyRun k t
      | .fault _ => false
      | .refused _ => false

/-! ## The invariant -/

/-- What every state the core can be in satisfies: STATUS has a legal form and describes the command in CMD, and the
result registers stay in the range the rules give. -/
structure Inv (s : State) : Prop where
  /-- ERR codes 4 to 7 are never produced (R26). -/
  err_legal : s.status.err.toNat ≤ 3
  /-- BUSY and DONE never hold together (R24). -/
  busy_excludes_done : s.status.busy = true → s.status.done = false
  /-- While a command is in flight ERR is clear and CMD still holds its word (R94, R97). -/
  busy_issued : s.status.busy = true → s.status.err = errNone ∧ s.latCmd = s.cmd
  /-- Neither BUSY nor DONE: nothing has been issued since reset (R25). -/
  idle_untouched : s.status.busy = false → s.status.done = false →
    s.status.err = errNone ∧ s.cmd = 0#16 ∧ s.res = 0#8 ∧ s.cnt = 0#16 ∧ s.status.isgen = false
  /-- After completion ERR is ILLEGAL_CMD exactly when CMD holds an illegal word (R98, R191). -/
  done_illegal : s.status.done = true →
    (s.status.err = errIllegalCmd ↔ ¬ (1 ≤ s.cmd.toNat ∧ s.cmd.toNat ≤ 7))
  /-- NO_INVERSE belongs to FINV and comes with RES = 0x00 (R191). -/
  noInverse_finv : s.status.err = errNoInverse → s.cmd = 2#16 ∧ s.res = 0#8
  /-- ORDER_NOT_FOUND belongs to ORDER and comes with CNT = 0 and ISGEN = 0 (R191). -/
  notFound_order : s.status.err = errOrderNotFound → s.cmd = 7#16 ∧ s.cnt = 0#16 ∧ s.status.isgen = false
  /-- A field result has RES[7:4] = 0 (R73). -/
  field_result : s.status.done = true → s.cmd = 1#16 ∨ s.cmd = 2#16 → s.res.toNat < 16
  /-- An order found is from 1 to 22 (R173, R174), and CNT is written by ORDER only (R102). -/
  cnt_bound : s.cnt.toNat ≤ 22
  /-- A successful ORDER leaves a nonzero order (R173). -/
  order_found : s.status.done = true → s.cmd = 7#16 → s.status.err = errNone → 1 ≤ s.cnt.toNat
  /-- A generator has a nonzero order (R172, R173). -/
  isgen_found : s.status.isgen = true → 1 ≤ s.cnt.toNat
  /-- A CMD write is dropped only after an issue, so a poll after it hangs because of the drop, not for want of a command
  (R97, R217). -/
  lost_issued : s.cmdLost = true → s.status.busy = true ∨ s.status.done = true

end Sys2Proof.Machine
end

