-- ==== Sys2Proof/Certificates/Slice0/Obligations.lean ====
section
/-! DEFINITION. Certificates/Slice0/Obligations.lean: the statements about the machine, one `def Obligations.<Name>`
each, in the order of spec/'s files. A state written `{ s with … }` says the result and the frame at once: every field
not named is unchanged. -/

open Sys2Proof Sys2Proof.Machine

/-- A field element as a polynomial over GF(2): bit i is the coefficient of x^i (R9). -/
noncomputable def Sys2Proof.Machine.eltPoly (a : Elt) : Polynomial (ZMod 2) :=
  ∑ i : Fin 4, if a.getLsbD i then Polynomial.X ^ (i : ℕ) else 0

/-! ## State and reset -/

/-- R36: the state after reset. The latches, unspecified there, are not mentioned. -/
def Obligations.ResetValuesOfTheRegisters : Prop :=
  State.reset.cmd = 0x0000#16 ∧ State.reset.opa = 0x00#8 ∧ State.reset.opb = 0x00#8 ∧ State.reset.opk = 0x0000#16 ∧
    State.reset.opn = 0x0000#16 ∧ State.reset.res = 0x00#8 ∧ State.reset.cnt = 0x0000#16 ∧
    State.reset.status.busy = false ∧ State.reset.status.done = false ∧ State.reset.status.err = 0#3 ∧
    State.reset.status.isgen = false ∧
    ∀ r, ∃ t, exec (.rd r) State.reset = .next t ∧ t.reads = [0x0000#16]

/-- R210: RESET sets every register, discards the command in flight and leaves COMPLETE disabled. It stands at the head
of the pending actions, and COMPLETE is not due before it. What the host still does and has read is kept (log 12, the
model's choice). -/
def Obligations.ResetEventDiscardsTheCommand : Prop :=
  ∀ (s : State) (rest : List HostAction), s.pending = .reset :: rest → (s.status.busy = true → s.due ≠ 0) →
    ∃ t, step s = .next t ∧
      t.cmd = 0x0000#16 ∧ t.opa = 0x00#8 ∧ t.opb = 0x00#8 ∧ t.opk = 0x0000#16 ∧ t.opn = 0x0000#16 ∧
      t.res = 0x00#8 ∧ t.cnt = 0x0000#16 ∧
      t.status = { busy := false, done := false, err := 0#3, isgen := false } ∧
      t.completes = false ∧ t.pending = rest ∧ t.reads = s.reads

/-- The invariant holds after reset. -/
def Obligations.ResetMeetsTheStateInvariant : Prop := Inv State.reset

/-- The invariant is kept by every step, from every state that meets it: COMPLETE, transactions, polls and RESET. -/
def Obligations.StepKeepsTheStateInvariant : Prop := ∀ s t : State, Inv s → step s = .next t → Inv t

/-! ## The port -/

/-- R93: what each read returns, as numbers; nothing but the host's own record of reads changes. -/
def Obligations.ReadReturnsTheRegister : Prop :=
  ∀ (s : State) (r : Reg), ∃ (v : Word) (t : State), exec (.rd r) s = .next t ∧ t = { s with reads := v :: s.reads } ∧
    match r with
    | .cmd => v = s.cmd
    | .status =>
      v.toNat = s.status.busy.toNat + 2 * s.status.done.toNat + 4 * s.status.err.toNat + 32 * s.status.isgen.toNat
    | .opa => v.toNat = s.opa.toNat
    | .opb => v.toNat = s.opb.toNat
    | .opk => v = s.opk
    | .opn => v = s.opn
    | .res => v.toNat = s.res.toNat
    | .cnt => v = s.cnt

/-- R92: what each write stores, and that nothing else changes. A CMD write while idle issues (R94), while busy it is
dropped (R97). -/
def Obligations.WriteStoresOnlyItsRegister : Prop :=
  ∀ (s : State) (r : Reg) (v : Word), ∃ t, exec (.wr r v) s = .next t ∧
    match r with
    | .cmd => if s.status.busy then t = s else t = s.issue v
    | .status => t = s
    | .opa => t.opa.toNat = v.toNat % 256 ∧ t = { s with opa := t.opa }
    | .opb => t.opb.toNat = v.toNat % 256 ∧ t = { s with opb := t.opb }
    | .opk => t = { s with opk := v }
    | .opn => t = { s with opn := v }
    | .res => t = s
    | .cnt => t = s

/-- R94: a CMD write while idle stores the word, legal or not, latches the operands and sets STATUS; the result
registers, ISGEN and the operand registers keep their values. -/
def Obligations.IssueLatchesTheOperands : Prop :=
  ∀ (s : State) (v : Word), s.status.busy = false → ∃ t, exec (.wr .cmd v) s = .next t ∧
    t.cmd = v ∧ t.latCmd = v ∧ t.latA = s.opa ∧ t.latB = s.opb ∧ t.latK = s.opk ∧ t.latN = s.opn ∧
    t.status.busy = true ∧ t.status.done = false ∧ t.status.err = 0#3 ∧
    t.status.isgen = s.status.isgen ∧ t.res = s.res ∧ t.cnt = s.cnt ∧
    t.opa = s.opa ∧ t.opb = s.opb ∧ t.opk = s.opk ∧ t.opn = s.opn ∧
    t.pending = s.pending ∧ t.reads = s.reads

/-- R97: a CMD write while a command is in flight changes no state. -/
def Obligations.BusyCmdWriteChangesNothing : Prop :=
  ∀ (s : State) (v : Word), s.status.busy = true → exec (.wr .cmd v) s = .next s

/-- R52: what a read of any register returns after a write to any register but CMD: the 8-bit registers are truncated
and zero-extended, the read-only ones ignore the write, and no register aliases another. A write to a read-only register
changes no state at all. A CMD write while idle stores all 16 bits; what it does to STATUS is R94. -/
def Obligations.ReadAfterWriteOnThePort : Prop :=
  (∀ (s : State) (r r' : Reg) (v : Word), r ≠ .cmd → ∃ t, exec (.wr r v) s = .next t ∧
    (t.portRead r').toNat =
      if r = r' ∧ (r = .opa ∨ r = .opb) then v.toNat % 256
      else if r = r' ∧ (r = .opk ∨ r = .opn) then v.toNat
      else (s.portRead r').toNat) ∧
  (∀ (s : State) (v : Word), exec (.wr .status v) s = .next s ∧ exec (.wr .res v) s = .next s ∧
    exec (.wr .cnt v) s = .next s) ∧
  ∀ (s : State) (r' : Reg) (v : Word), s.status.busy = false → ∃ t, exec (.wr .cmd v) s = .next t ∧
    t.portRead .cmd = v ∧ (r' ≠ .cmd → r' ≠ .status → t.portRead r' = s.portRead r')

/-- Frame of the two transactions (R56, R92, R93): neither writes RES, CNT or ISGEN; only an issuing CMD write touches
CMD, the latches or the rest of STATUS; a read touches no register at all. -/
def Obligations.TransactionsLeaveTheRestAlone : Prop :=
  ∀ (i : Instr) (s t : State), isCommand i = false → exec i s = .next t →
    t.res = s.res ∧ t.cnt = s.cnt ∧ t.status.isgen = s.status.isgen ∧ t.pending = s.pending ∧
    ((∀ v, i = .wr .cmd v → s.status.busy = true) →
      t.cmd = s.cmd ∧ t.status = s.status ∧ t.latCmd = s.latCmd ∧ t.latA = s.latA ∧ t.latB = s.latB ∧
        t.latK = s.latK ∧ t.latN = s.latN) ∧
    ((∀ v, i ≠ .wr .opa v) → t.opa = s.opa) ∧ ((∀ v, i ≠ .wr .opb v) → t.opb = s.opb) ∧
    ((∀ v, i ≠ .wr .opk v) → t.opk = s.opk) ∧ ((∀ v, i ≠ .wr .opn v) → t.opn = s.opn) ∧
    ((∀ r, i ≠ .rd r) → t.reads = s.reads)

/-! ## Encoding -/

/-- Decode and encode agree for every well-formed instruction with every operand value, every decoding is well formed,
and every command word and every WR record has one meaning. -/
def Obligations.DecodeAndEncodeAgree : Prop :=
  (∀ i : Instr, i.WellFormed → decode (encode i) = i) ∧
    (∀ e : Encoded, (decode e).WellFormed) ∧
    (∀ w : Word, encode (decodeCommand w) = .command w) ∧
    (∀ r : Htx, encode (decodeHtx r) = .htx r ↔ (r.getLsbD 19 = true ∨ r.toNat % 2 ^ 16 = 0))

/-- R77: the seven legal command words, and that no other word is legal. -/
def Obligations.SevenLegalCommandWords : Prop :=
  ∀ w : Word,
    (decodeCommand w = .fmul ↔ w = 0x0001#16) ∧ (decodeCommand w = .finv ↔ w = 0x0002#16) ∧
    (decodeCommand w = .padd ↔ w = 0x0003#16) ∧ (decodeCommand w = .pdbl ↔ w = 0x0004#16) ∧
    (decodeCommand w = .smulh ↔ w = 0x0005#16) ∧ (decodeCommand w = .smull ↔ w = 0x0006#16) ∧
    (decodeCommand w = .order ↔ w = 0x0007#16) ∧
    ((∃ rsv op, decodeCommand w = .illegal rsv op ∧ rsv.toNat = w.toNat / 16 ∧ op.toNat = w.toNat % 16) ↔
      (w.toNat = 0 ∨ 8 ≤ w.toNat))

/-- R81 with R51: every 20-bit number is a record, a write when bit 19 is 1, of register IDX; a read ignores DATA. -/
def Obligations.RecordFieldsSelectTheTransaction : Prop :=
  ∀ (idx : BitVec 3) (data : Word),
    let reg := [Reg.cmd, .status, .opa, .opb, .opk, .opn, .res, .cnt].getD idx.toNat .cmd
    decodeHtx (BitVec.ofNat 20 (2 ^ 19 + 2 ^ 16 * idx.toNat + data.toNat)) = .wr reg data ∧
      decodeHtx (BitVec.ofNat 20 (2 ^ 16 * idx.toNat + data.toNat)) = .rd reg

/-- Words written out from R77 and R81 decode to what they stand for. -/
def Obligations.SpecWordsDecode : Prop :=
  decodeTableWord 16 0x0001 = some .fmul ∧ decodeTableWord 16 0x0007 = some .order ∧
    decodeTableWord 16 0x0011 = some (.illegal 0x001#12 0x1#4) ∧
    decodeTableWord 24 0xA0050 = some (.wr .opa 0x0050#16) ∧ decodeTableWord 24 0x80005 = some (.wr .cmd 0x0005#16) ∧
    decodeTableWord 24 0x10000 = some (.rd .status) ∧ decodeTableWord 24 0x60000 = some (.rd .res)

/-! ## The step -/

/-- R96 and R58: which instruction a step runs, and in which state. COMPLETE of lat[CMD] when it is due or the only
enabled step; else the host's next record, one transaction nearer to COMPLETE, with a CMD write (W = 1, IDX = 0) noted
as dropped or not; a poll reads STATUS and stays pending while its condition asks for another round, the poll on DONE
also after a dropped CMD write (R217); with nothing enabled nothing changes (log 1, 5, 6, 17: the model's choice of the
moment and of the note). -/
def Obligations.StepRunsTheDecodedInstruction : Prop :=
  (∀ s : State, s.status.busy = true → (s.due = 0 ∨ s.pending = []) → step s = exec (decodeCommand s.latCmd) s) ∧
    (∀ (s : State) (r : Htx) (rest : List HostAction), (s.status.busy = true → s.due ≠ 0) →
      s.pending = .htx r :: rest → step s = exec (decodeHtx r)
        { s with pending := rest, due := s.due - 1,
                 cmdLost := if r.toNat / 2 ^ 16 = 8 then s.status.busy else s.cmdLost }) ∧
    (∀ (s : State) (rest : List HostAction), (s.status.busy = true → s.due ≠ 0) → s.pending = .waitBusy :: rest →
      step s = exec (.rd .status)
        { s with pending := if s.status.busy then .waitBusy :: rest else rest, due := s.due - 1 }) ∧
    (∀ (s : State) (rest : List HostAction), (s.status.busy = true → s.due ≠ 0) → s.pending = .waitDone :: rest →
      step s = exec (.rd .status)
        { s with pending := if s.status.done && !s.cmdLost then rest else .waitDone :: rest, due := s.due - 1 }) ∧
    (∀ s : State, s.status.busy = false → s.pending = [] → step s = .next s)

/-- An opcode-table row's bits, placed by `withFetchWord` in any state, are exactly what the next step runs (log 4; the
note of a CMD write is log 17). -/
def Obligations.PlacedWordIsTheNextInstruction : Prop :=
  (∀ (s : State) (w : Nat), w < 2 ^ 20 →
      step (s.withFetchWord 24 w) =
        exec (decodeHtx (BitVec.ofNat 20 w))
          { s with cmdLost := if w / 2 ^ 16 = 8 then s.status.busy else s.cmdLost }) ∧
    (∀ (s : State) (w : Nat), w < 2 ^ 16 →
      step (s.withFetchWord 16 w) =
        exec (decodeCommand (BitVec.ofNat 16 w))
          { s with cmd := BitVec.ofNat 16 w, latCmd := BitVec.ofNat 16 w, latA := s.opa, latB := s.opb, latK := s.opk,
                   latN := s.opn, status := { s.status with busy := true, done := false, err := 0#3 }, due := 0 })

/-- No transaction, COMPLETE, poll or RESET stops the machine (R96, R210, R58), and every state has a next state. That an
idle core with nothing pending has one too, itself, is the model's choice (log 5): the spec gives no step there. -/
def Obligations.EveryStepHasANextState : Prop := ∀ s : State, ∃ t, step s = .next t

/-- R32, R96, R210: a result register or ISGEN changes only in a step that ends a command in flight, that is COMPLETE,
or in a RESET. -/
def Obligations.ResultsChangeOnlyAtCompleteOrReset : Prop :=
  ∀ s t : State, step s = .next t → (t.res ≠ s.res ∨ t.cnt ≠ s.cnt ∨ t.status.isgen ≠ s.status.isgen) →
    t.status.busy = false ∧
      ((s.status.busy = true ∧ s.completes = true ∧ t.status.done = true ∧ t.pending = s.pending) ∨
        s.pending = .reset :: t.pending)

/-! ## Commands: results, STATUS and frame -/

/-- R98: an illegal word in flight computes nothing and reports ILLEGAL_CMD, whatever its fields are; the rule's example,
from reset. -/
def Obligations.IllegalWordReportsAndComputesNothing : Prop :=
  (∀ w : Word, ¬ (1 ≤ w.toNat ∧ w.toNat ≤ 7) → ∀ s : State,
    exec (decodeCommand w) s = .next { s with status := { s.status with busy := false, done := true, err := 3#3 } }) ∧
  (∀ (rsv : BitVec 12) (op : BitVec 4) (s : State),
    exec (.illegal rsv op) s = .next { s with status := { s.status with busy := false, done := true, err := 3#3 } }) ∧
  ∃ t u : State, exec (.wr .cmd 0x0000#16) State.reset = .next t ∧ exec (decodeCommand t.latCmd) t = .next u ∧
    u.portRead .status = 0x000E#16 ∧ u.res = 0x00#8 ∧ u.portRead .cmd = 0x0000#16

/-- R110: FMUL's result, STATUS and frame; 0, 1 and the example of the rule. -/
def Obligations.FmulWritesTheProduct : Prop :=
  decodeCommand 0x0001#16 = .fmul ∧
    (∀ s : State, exec .fmul s =
      .next { s with res := (gfMul (s.latA.setWidth 4) (s.latB.setWidth 4)).setWidth 8,
                     status := { s.status with busy := false, done := true, err := 0#3 } }) ∧
    (∀ a : Elt, gfMul a 0#4 = 0#4 ∧ gfMul 0#4 a = 0#4 ∧ gfMul a 1#4 = a ∧ gfMul 1#4 a = a) ∧
    gfMul 0xF#4 0xF#4 = 0xA#4

/-- R113 with the table of R33: FINV's result is the table's entry, whose product with the operand is 1; for 0 it is
0x00 with NO_INVERSE. -/
def Obligations.FinvWritesTheInverse : Prop :=
  decodeCommand 0x0002#16 = .finv ∧
    ∀ s : State, ∃ r : BitVec 8, exec .finv s =
      .next { s with res := r,
                     status := { s.status with busy := false, done := true,
                                               err := if s.latA.toNat % 16 = 0 then 1#3 else 0#3 } } ∧
      r.toNat = [0, 1, 9, 14, 13, 11, 7, 6, 15, 2, 12, 5, 10, 4, 3, 8].getD (s.latA.toNat % 16) 16 ∧
      (s.latA.toNat % 16 ≠ 0 → gfMul (s.latA.setWidth 4) (r.setWidth 4) = 1#4)

/-- R134: PADD's result, STATUS and frame; the rule's examples. -/
def Obligations.PaddWritesTheSum : Prop :=
  decodeCommand 0x0003#16 = .padd ∧
    (∀ s : State, exec .padd s =
      .next { s with res := ptAdd s.latA s.latB,
                     status := { s.status with busy := false, done := true, err := 0#3 } }) ∧
    (∀ p q : Point, ptAdd p q = ptAdd q p ∧ ptAdd p p = ptDbl p ∧ ptAdd p 0x00#8 = p ∧
      ptAdd p (mkpt (ptX p) (ptX p ^^^ ptY p)) = 0x00#8 ∧
      (p.toNat / 16 = q.toNat / 16 → p ≠ q → p ≠ 0x00#8 → q ≠ 0x00#8 → ptAdd p q = 0x00#8)) ∧
    ptAdd 0x50#8 0xFB#8 = 0x10#8 ∧ ptAdd 0x0B#8 0x0B#8 = 0x00#8 ∧ ptAdd 0x05#8 0x09#8 = 0x00#8

/-- R135: PDBL's result, STATUS and frame; every byte with x = 0 doubles to INF; the rule's example. -/
def Obligations.PdblWritesTheDouble : Prop :=
  decodeCommand 0x0004#16 = .pdbl ∧
    (∀ s : State, exec .pdbl s =
      .next { s with res := ptDbl s.latA,
                     status := { s.status with busy := false, done := true, err := 0#3 } }) ∧
    (∀ p : Point, p.toNat < 16 → ptDbl p = 0x00#8) ∧ (∀ p : Point, ptDbl p = ptAdd p p) ∧ ptDbl 0x50#8 = 0xFB#8

/-- R152: SMULH's result, STATUS and frame; the rule's corner cases and example. -/
def Obligations.SmulhWritesTheMultiple : Prop :=
  decodeCommand 0x0005#16 = .smulh ∧
    (∀ s : State, exec .smulh s =
      .next { s with res := smulH2l s.latA s.latK,
                     status := { s.status with busy := false, done := true, err := 0#3 } }) ∧
    (∀ p : Point, smulH2l p 0#16 = 0x00#8 ∧ smulH2l p 1#16 = p) ∧ (∀ d : Word, smulH2l 0x00#8 d = 0x00#8) ∧
    smulH2l 0x50#8 0xFFFF#16 = 0x11#8 ∧ smulH2l 0x50#8 0x0007#16 = 0x2D#8

/-- R153: SMULL's result, STATUS and frame; the rule's corner cases and example. -/
def Obligations.SmullWritesTheMultiple : Prop :=
  decodeCommand 0x0006#16 = .smull ∧
    (∀ s : State, exec .smull s =
      .next { s with res := smulL2h s.latA s.latK,
                     status := { s.status with busy := false, done := true, err := 0#3 } }) ∧
    (∀ p : Point, smulL2h p 0#16 = 0x00#8 ∧ smulL2h p 1#16 = p) ∧ (∀ d : Word, smulL2h 0x00#8 d = 0x00#8) ∧
    (∀ (p : Point) (d : Word), smulL2h p d = smulH2l p d) ∧ smulL2h 0x50#8 0x0007#16 = 0x2D#8

/-- R171 and R172: ORDER finds the order of lat[A] exactly when it is at most the bound lat[K], writes it to CNT and
compares it with lat[N]; otherwise CNT = 0, ISGEN = 0 and ORDER_NOT_FOUND. Nothing else changes; the rule's example. -/
def Obligations.OrderWritesTheOrderAndVerdict : Prop :=
  decodeCommand 0x0007#16 = .order ∧
    (∀ s : State, ∃ (n : Word) (g : Bool) (e : BitVec 3), exec .order s =
      .next { s with cnt := n, status := { busy := false, done := true, err := e, isgen := g } } ∧
      ((IsOrder s.latA n.toNat ∧ n.toNat ≤ s.latK.toNat ∧ e = 0#3 ∧ (g = true ↔ n = s.latN)) ∨
        ((∀ k, IsOrder s.latA k → s.latK.toNat < k) ∧ n = 0#16 ∧ e = 2#3 ∧ g = false))) ∧
    IsOrder 0x81#8 11

/-- R102: which command writes which result register at its completion; every command writes ERR. -/
def Obligations.ResultRegistersHaveOwners : Prop :=
  ∀ (i : Instr) (s t : State), isCommand i = true → exec i s = .next t →
    (writesRes i = false → t.res = s.res) ∧
    (i ≠ .order → t.cnt = s.cnt ∧ t.status.isgen = s.status.isgen) ∧
    (∀ u v : State, s = { v with status := { v.status with err := s.status.err } } → exec i v = .next u →
      u.status.err = t.status.err)

/-- Frame of the commands (R28, R95, R96): no command changes CMD, an operand register or a latch, nor anything of the
outside agents; each ends with BUSY = 0 and DONE = 1. -/
def Obligations.CommandsLeaveTheOperandsAlone : Prop :=
  ∀ (i : Instr) (s : State), isCommand i = true → ∃ t, exec i s = .next t ∧
    t = { s with res := t.res, cnt := t.cnt, status := t.status } ∧ t.status.busy = false ∧ t.status.done = true

/-- R191: the causes of the error codes, what each records, and that no other command raises one. -/
def Obligations.ErrorCodesHaveTheirCauses : Prop :=
  ∀ (i : Instr) (s : State), isCommand i = true → ∃ t, exec i s = .next t ∧ t.status.err.toNat ≤ 3 ∧
    (t.status.err = 1#3 ↔ i = .finv ∧ s.latA.toNat % 16 = 0) ∧
    (t.status.err = 2#3 ↔ i = .order ∧ ∀ n, IsOrder s.latA n → s.latK.toNat < n) ∧
    (t.status.err = 3#3 ↔ ∃ rsv op, i = .illegal rsv op) ∧
    (t.status.err = 1#3 → t.res = 0x00#8 ∧ t.opa = s.opa) ∧
    (t.status.err = 2#3 → t.cnt = 0x0000#16 ∧ t.status.isgen = false) ∧
    (t.status.err = 3#3 → t.cmd = s.cmd)

/-- R101: what COMPLETE writes is a function of the five latches; two states that agree on them, whatever else they
hold, get the same error, results and verdict, and keep what the command does not write. -/
def Obligations.CompletionReadsOnlyTheLatches : Prop :=
  ∀ s s' : State, s'.latCmd = s.latCmd → s'.latA = s.latA → s'.latB = s.latB → s'.latK = s.latK → s'.latN = s.latN →
    ∃ t t' : State, exec (decodeCommand s.latCmd) s = .next t ∧ exec (decodeCommand s'.latCmd) s' = .next t' ∧
      t'.status.err = t.status.err ∧
      (if writesRes (decodeCommand s.latCmd) then t'.res = t.res else t.res = s.res ∧ t'.res = s'.res) ∧
      (if decodeCommand s.latCmd = .order then t'.cnt = t.cnt ∧ t'.status.isgen = t.status.isgen
       else t.cnt = s.cnt ∧ t'.cnt = s'.cnt ∧ t.status.isgen = s.status.isgen ∧ t'.status.isgen = s'.status.isgen)

/-- R95: whatever transactions the host makes while a command is in flight, writes to every register included, the
command completes with the same results as if they had not been made. -/
def Obligations.TransactionsInFlightDoNotChangeTheResult : Prop :=
  ∀ (is : List Instr) (s : State), (∀ i ∈ is, isCommand i = false) → s.status.busy = true →
    ∃ s' t t' : State, execAll is s = .next s' ∧
      exec (decodeCommand s.latCmd) s = .next t ∧ exec (decodeCommand s'.latCmd) s' = .next t' ∧
      t'.res = t.res ∧ t'.cnt = t.cnt ∧ t'.status = t.status ∧ t'.cmd = t.cmd ∧ t'.opa = s'.opa

/-! ## Field arithmetic -/

/-- R9 and R111: the multiplier multiplies polynomials over GF(2) modulo x^4 + x + 1. -/
def Obligations.MultiplierIsPolynomialProduct : Prop :=
  ∀ a b : Elt,
    (Polynomial.X ^ 4 + Polynomial.X + 1 : Polynomial (ZMod 2)) ∣ eltPoly (gfMul a b) - eltPoly a * eltPoly b

/-- R112: commutative, associative, distributive over XOR, with unit 1 and zero 0. -/
def Obligations.MultiplierLaws : Prop :=
  ∀ a b c : Elt, gfMul a b = gfMul b a ∧ gfMul (gfMul a b) c = gfMul a (gfMul b c) ∧
    gfMul a (b ^^^ c) = gfMul a b ^^^ gfMul a c ∧ gfMul a 1#4 = a ∧ gfMul a 0#4 = 0#4

/-- R114, R115 and R116: the ROM holds for each nonzero element the least, and only, factor that gives 1, so that the
two polynomials' product is 1 modulo x^4 + x + 1; entry 0 has no value. -/
def Obligations.InverseRomHoldsTheInverses : Prop :=
  gfInv 0#4 = none ∧ gfInv 1#4 = some 1#4 ∧
    ∀ a : Elt, a ≠ 0#4 → ∃ b : Elt, gfInv a = some b ∧ 1 ≤ b.toNat ∧ gfMul a b = 1#4 ∧ gfInv b = some a ∧
      (∀ c : Elt, gfMul a c = 1#4 → c = b) ∧
      (Polynomial.X ^ 4 + Polynomial.X + 1 : Polynomial (ZMod 2)) ∣ eltPoly a * eltPoly b - 1

/-! ## Curve arithmetic -/

/-- R133, stated without the inverse: the slope is the one element with x·λ = x² + y. -/
def Obligations.DoublerFollowsTheTangentRule : Prop :=
  (∀ y : Elt, ptDbl (mkpt 0#4 y) = 0x00#8) ∧
    ∀ x y lam : Elt, x ≠ 0#4 → gfMul x lam = gfMul x x ^^^ y →
      ptDbl (mkpt x y) =
        (let x3 := gfMul lam lam ^^^ lam ^^^ 0x8#4
         mkpt x3 (gfMul x x ^^^ gfMul lam x3 ^^^ x3))

/-- R132, its four steps in order, the generic one stated without the inverse: the slope is the one element with
dx·λ = dy. -/
def Obligations.AdderFollowsTheChordRule : Prop :=
  (∀ p : Point, ptAdd 0x00#8 p = p ∧ ptAdd p 0x00#8 = p ∧ ptAdd p p = ptDbl p) ∧
    (∀ x y y' : Elt, y ≠ y' → mkpt x y ≠ 0x00#8 → mkpt x y' ≠ 0x00#8 → ptAdd (mkpt x y) (mkpt x y') = 0x00#8) ∧
    ∀ x1 y1 x2 y2 lam : Elt, mkpt x1 y1 ≠ 0x00#8 → mkpt x2 y2 ≠ 0x00#8 → x1 ≠ x2 →
      gfMul (x1 ^^^ x2) lam = y1 ^^^ y2 →
      ptAdd (mkpt x1 y1) (mkpt x2 y2) =
        (let x3 := gfMul lam lam ^^^ lam ^^^ x1 ^^^ x2 ^^^ 0x8#4
         mkpt x3 (gfMul lam (x1 ^^^ x3) ^^^ x3 ^^^ y1))

/-- R136: the adder and the doubler never ask for the inverse of 0. Any other output of the ROM for 0 would give the same
results, and NO_INVERSE never comes from a curve command. -/
def Obligations.InverseOfZeroIsNeverUsed : Prop :=
  (∀ inv : Elt → Elt, (∀ a, a ≠ 0#4 → inv a = romValue a) →
    (∀ p, ptDblWith inv p = ptDbl p) ∧ ∀ p q, ptAddWith inv p q = ptAdd p q) ∧
    ∀ i ∈ [Instr.padd, .pdbl, .smulh, .smull, .order], ∀ s : State, ∃ t, exec i s = .next t ∧ t.status.err ≠ 1#3

/-- R137: the laws that hold for every byte, on the curve or not. -/
def Obligations.PointLawsForEveryByte : Prop :=
  ∀ p q : Point, ptAdd p inf = p ∧ ptAdd inf p = p ∧ ptAdd p p = ptDbl p ∧
    ptAdd p (mkpt (ptX p) (ptX p ^^^ ptY p)) = inf ∧ ptAdd p q = ptAdd q p

/-- R138: on each of the 16 curves, together with INF, the adder is closed and associative, `(x, x ^ y)` is the inverse,
and every byte has an order of at most 22. The curve with b' = 9 is the one of R130, with 22 elements. -/
def Obligations.EveryCurveIsAGroup : Prop :=
  (∀ b : Elt, ∀ p q r : Point,
    (p = inf ∨ curveTerm p = b) → (q = inf ∨ curveTerm q = b) → (r = inf ∨ curveTerm r = b) →
      (ptAdd p q = inf ∨ curveTerm (ptAdd p q) = b) ∧ ptAdd (ptAdd p q) r = ptAdd p (ptAdd q r) ∧
      ptAdd p q = ptAdd q p ∧ ptAdd p inf = p ∧ ptAdd p (mkpt (ptX p) (ptX p ^^^ ptY p)) = inf ∧
      (mkpt (ptX p) (ptX p ^^^ ptY p) = inf ∨ curveTerm (mkpt (ptX p) (ptX p ^^^ ptY p)) = b)) ∧
    (∀ p : Point, ∃ n, IsOrder p n ∧ n ≤ 22) ∧
    (∀ p : Point, inGroup p = true ↔ (p = inf ∨ curveTerm p = 9#4)) ∧
    ((List.range 256).filter fun k => inGroup (BitVec.ofNat 8 k)).length = 22

/-- R130: the curve's equation, that it has 21 finite points and INF is none of them; and the point commands keep its
22-element group. -/
def Obligations.GroupOfTheCurveIsClosed : Prop :=
  (∀ x y : Elt, onCurve (mkpt x y) = true ↔
    (mkpt x y ≠ inf ∧
      gfMul y y ^^^ gfMul x y = gfMul (gfMul x x) x ^^^ gfMul 0x8#4 (gfMul x x) ^^^ 0x9#4)) ∧
  onCurve inf = false ∧ ((List.range 256).filter fun k => onCurve (BitVec.ofNat 8 k)).length = 21 ∧
    ∀ (p q : Point) (d : Word), inGroup p = true → inGroup q = true →
      inGroup (ptAdd p q) = true ∧ inGroup (ptDbl p) = true ∧ inGroup (smulH2l p d) = true ∧
        inGroup (smulL2h p d) = true

/-! ## Scalar multiplication -/

/-- R150: the high-to-low recurrence, which with the zero case and d = 1 determines the function: appending a bit to the
scalar doubles the result and then adds P if the bit is 1. -/
def Obligations.HighToLowDoublesThenAdds : Prop :=
  ∀ p : Point, smulH2l p 0#16 = inf ∧ smulH2l p 1#16 = p ∧
    ∀ d : Nat, 1 ≤ d → 2 * d + 1 < 2 ^ 16 →
      smulH2l p (BitVec.ofNat 16 (2 * d)) = ptDbl (smulH2l p (BitVec.ofNat 16 d)) ∧
      smulH2l p (BitVec.ofNat 16 (2 * d + 1)) = ptAdd (ptDbl (smulH2l p (BitVec.ofNat 16 d))) p

/-- R151: the low-to-high recurrence, which with d = 0 determines the function: bit i of the scalar adds the base doubled
i times to the result of the bits below it. -/
def Obligations.LowToHighAddsTheDoubledBase : Prop :=
  ∀ p : Point, smulL2h p 0#16 = inf ∧
    ∀ (i m : Nat), i < 16 → m < 2 ^ i →
      smulL2h p (BitVec.ofNat 16 (2 ^ i + m)) = ptAdd (smulL2h p (BitVec.ofNat 16 m)) (ptDbl^[i] p)

/-- R154: both modes give the d-fold sum, for every byte and every scalar. -/
def Obligations.ScalarModesAgree : Prop :=
  ∀ (p : Point) (d : Word), smulH2l p d = smulL2h p d ∧ smulH2l p d = multiple p d.toNat ∧
    (d = 0#16 → smulH2l p d = inf)

/-- R155: small scalars, and that scalars count modulo the order of the point, which is at most 22. -/
def Obligations.ScalarsCountModuloTheOrder : Prop :=
  ∀ p : Point, (smulH2l p 0#16 = inf ∧ smulH2l p 1#16 = p ∧ smulH2l p 2#16 = ptDbl p) ∧
    (smulL2h p 0#16 = inf ∧ smulL2h p 1#16 = p ∧ smulL2h p 2#16 = ptDbl p) ∧
    ∃ n, IsOrder p n ∧ n ≤ 22 ∧ ∀ d : Word,
      smulH2l p d = smulH2l p (BitVec.ofNat 16 (d.toNat % n)) ∧ smulL2h p d = smulL2h p (BitVec.ofNat 16 (d.toNat % n))

/-- R156: scalar linearity, where the sum of the scalars fits into OPK. -/
def Obligations.ScalarsAreLinear : Prop :=
  ∀ (p : Point) (a b : Word), a.toNat + b.toNat ≤ 65535 →
    smulH2l p (a + b) = ptAdd (smulH2l p a) (smulH2l p b) ∧ smulL2h p (a + b) = ptAdd (smulL2h p a) (smulL2h p b)

/-! ## Order -/

/-- R170: `order_of` answers n exactly when n is the order and n ≤ M. -/
def Obligations.OrderIsTheLeastMultiple : Prop :=
  ∀ (g : Point) (m : Word) (n : Nat), orderOf g m = some n ↔ (IsOrder g n ∧ n ≤ m.toNat)

/-- R174: every byte has an order of at most 22, so a bound of 22 or more always finds it; on the curve the orders are 1
(INF), 2 (0x0B), 11 (ten points) and 22 (ten points). -/
def Obligations.OrdersAreAtMostTwentyTwo : Prop :=
  (∀ (g : Point) (m : Word), 22 ≤ m.toNat → ∃ n, orderOf g m = some n ∧ n ≤ 22) ∧
    (∀ (g : Point) (m : Word), orderOf g m = none ↔ ∃ n, IsOrder g n ∧ m.toNat < n) ∧
    (∀ g : Point, inGroup g = true →
      ((IsOrder g 1 ↔ g = inf) ∧ (IsOrder g 2 ↔ g = 0x0B#8) ∧
        (g ≠ inf → g ≠ 0x0B#8 → IsOrder g 11 ∨ IsOrder g 22))) ∧
    ((List.range 256).filter fun k =>
      inGroup (BitVec.ofNat 8 k) && orderOf (BitVec.ofNat 8 k) 22#16 == some 11).length = 10 ∧
    ((List.range 256).filter fun k =>
      inGroup (BitVec.ofNat 8 k) && orderOf (BitVec.ofNat 8 k) 22#16 == some 22).length = 10

/-- R173: INF, a zero bound, the bound's boundary, a zero cardinality, RES kept, and the order of an off-curve byte. -/
def Obligations.OrderCornerCases : Prop :=
  (IsOrder 0x12#8 14 ∧ onCurve 0x12#8 = false) ∧ ∀ s : State, ∃ t, exec .order s = .next t ∧ t.res = s.res ∧
    (s.latA = 0x00#8 → 1 ≤ s.latK.toNat → t.cnt = 1#16 ∧ (t.status.isgen = true ↔ s.latN = 1#16)) ∧
    (s.latK = 0#16 → t.status.err = 2#3) ∧
    (∀ n, IsOrder s.latA n → s.latK.toNat = n → t.status.err = 0#3 ∧ t.cnt.toNat = n) ∧
    (∀ n, IsOrder s.latA n → s.latK.toNat = n - 1 → t.status.err = 2#3) ∧
    (s.latN = 0#16 → t.status.isgen = false) ∧
    (t.status.err = 2#3 → t.cnt = 0x0000#16 ∧ t.status.isgen = false)

/-! ## Hazards and progress -/

/-- R214: until COMPLETE or RESET a step leaves the result registers, STATUS and the command in flight as they are, and
ERR reads 0. That COMPLETE is then one transaction nearer is the model's countdown (R218; log 1). -/
def Obligations.ResultsAreStaleUntilComplete : Prop :=
  ∀ s : State, Inv s → s.status.busy = true → s.completes = false → (∀ rest, s.pending ≠ .reset :: rest) →
    ∃ t, step s = .next t ∧ t.res = s.res ∧ t.cnt = s.cnt ∧ t.status = s.status ∧ t.status.err = 0#3 ∧
      t.cmd = s.cmd ∧ t.latCmd = s.latCmd ∧ t.latA = s.latA ∧ t.latB = s.latB ∧ t.latK = s.latK ∧ t.latN = s.latN ∧
      t.due + 1 = s.due

/-- R59: once no command is in flight the results stay until the next issue or RESET. -/
def Obligations.ResultsAreKeptUntilTheNextIssue : Prop :=
  ∀ s : State, s.status.busy = false → (∀ rest, s.pending ≠ .reset :: rest) →
    ∃ t, step s = .next t ∧ t.res = s.res ∧ t.cnt = s.cnt ∧ t.status.isgen = s.status.isgen ∧
      (t.status = s.status ∨ (t.status.busy = true ∧ t.status.err = 0#3))

/-- R215: both outcomes of a CMD write that follows another are admitted: the second issues when COMPLETE came between,
and is dropped when it did not. -/
def Obligations.BothOutcomesOfABusyWriteOccur : Prop :=
  ∀ (s : State) (v w : Word) (rest : List HostAction), s.status.busy = false →
    s.pending = wrAction .cmd v :: wrAction .cmd w :: rest →
    (∃ k t, run k { s with latencies := [0] } = .next t ∧ t.pending = rest ∧ t.status.busy = true ∧ t.cmd = w ∧
      t.latCmd = w) ∧
    (∃ k t, run k { s with latencies := [1] } = .next t ∧ t.pending = rest ∧ t.status.busy = true ∧ t.cmd = v ∧
      t.latCmd = v)

/-- R218: the latency of a command is the number of host transactions between its issue and its COMPLETE, zero
included. -/
def Obligations.LatencyCountsTheTransactions : Prop :=
  ∀ (s : State) (v : Word) (recs : List Htx) (ls : List Nat) (rest : List HostAction), s.status.busy = false →
    s.latencies = recs.length :: ls → s.pending = wrAction .cmd v :: (recs.map .htx ++ rest) →
    (∀ k, k < recs.length → ∃ t, run (1 + k) s = .next t ∧ t.status.busy = true ∧ t.completes = false) ∧
    ∃ t, run (1 + recs.length) s = .next t ∧ t.status.busy = true ∧ t.completes = true ∧ t.pending = rest ∧
      step t = exec (decodeCommand v) t

/-- R220: a command in flight that no RESET discards completes, after at most the transactions still due. -/
def Obligations.EveryCommandInFlightCompletes : Prop :=
  ∀ s : State, s.status.busy = true → HostAction.reset ∉ s.pending →
    ∃ k t u, k ≤ s.due ∧ run k s = .next t ∧ t.completes = true ∧ t.latCmd = s.latCmd ∧ t.latA = s.latA ∧
      t.latB = s.latB ∧ t.latK = s.latK ∧ t.latN = s.latN ∧ step t = .next u ∧ u.status.busy = false ∧
      u.status.done = true

/-- R83 and R59: WAIT ends, and then the results are those of the command that was in flight. -/
def Obligations.WaitEndsWithTheResults : Prop :=
  ∀ (s : State) (rest : List HostAction), s.pending = .waitBusy :: rest →
    ∃ k t, k ≤ s.due + 2 ∧ run k s = .next t ∧ t.pending = rest ∧ t.status.busy = false ∧
      (s.status.busy = false → t.registers = s.registers) ∧
      (s.status.busy = true → ∃ u, exec (decodeCommand s.latCmd) s = .next u ∧ t.registers = u.registers)

/-- R217 and I11: a poll on DONE has no end where its command was never issued. With no command issued since reset it
never ends and never changes a register. After a dropped CMD write it never ends either, although the earlier command
completes and DONE is then that command's (log 17: how the model notes the drop). Neither program has an end state. -/
def Obligations.DonePollWithoutACommandHangs : Prop :=
  (∀ (s : State) (rest : List HostAction), s.pending = .waitDone :: rest → s.status.busy = false →
    s.status.done = false → ∀ k, endState k s = none ∧
      ∃ t, run k s = .next t ∧ t.pending = .waitDone :: rest ∧ t.registers = s.registers) ∧
  (∀ (s : State) (v : Word) (rest : List HostAction), s.pending = wrAction .cmd v :: .waitDone :: rest →
    s.status.busy = true → s.due ≠ 0 →
    (∀ k, ∃ t, run (1 + k) s = .next t ∧ t.pending = .waitDone :: rest) ∧
    (∃ k t u, run k s = .next t ∧ exec (decodeCommand s.latCmd) s = .next u ∧ t.registers = u.registers) ∧
    ∀ k, endState k s = none)

/-! ## Host programs -/

/-- R83: the expansions, written as the records of R81. -/
def Obligations.MacroExpansions : Prop :=
  ∀ a b n : Word,
    let rec_ := fun (base : Nat) (v : Word) => HostAction.htx (BitVec.ofNat 20 (base + v.toNat))
    Pseudo.expand .wait = [.waitBusy] ∧
    (Pseudo.issue .fmul).expand = [.htx 0x80001#20] ∧ (Pseudo.issue .finv).expand = [.htx 0x80002#20] ∧
    (Pseudo.issue .padd).expand = [.htx 0x80003#20] ∧ (Pseudo.issue .pdbl).expand = [.htx 0x80004#20] ∧
    (Pseudo.issue .smulh).expand = [.htx 0x80005#20] ∧ (Pseudo.issue .smull).expand = [.htx 0x80006#20] ∧
    (Pseudo.issue .order).expand = [.htx 0x80007#20] ∧
    (Pseudo.fmul a b).expand = [rec_ 0xA0000 a, rec_ 0xB0000 b, .htx 0x80001#20, .waitBusy] ∧
    (Pseudo.finv a).expand = [rec_ 0xA0000 a, .htx 0x80002#20, .waitBusy] ∧
    (Pseudo.padd a b).expand = [rec_ 0xA0000 a, rec_ 0xB0000 b, .htx 0x80003#20, .waitBusy] ∧
    (Pseudo.pdbl a).expand = [rec_ 0xA0000 a, .htx 0x80004#20, .waitBusy] ∧
    (Pseudo.smulh a b).expand = [rec_ 0xA0000 a, rec_ 0xC0000 b, .htx 0x80005#20, .waitBusy] ∧
    (Pseudo.smull a b).expand = [rec_ 0xA0000 a, rec_ 0xC0000 b, .htx 0x80006#20, .waitBusy] ∧
    (Pseudo.order a b n).expand =
      [rec_ 0xA0000 a, rec_ 0xC0000 b, rec_ 0xD0000 n, .htx 0x80007#20, .waitBusy]

/-- R83 and R218: from every idle state and for every latency, a macro runs to its end and leaves its command's result:
the result does not depend on when COMPLETE comes. -/
def Obligations.MacrosComputeForEveryLatency : Prop :=
  ∀ (p : Pseudo) (s : State) (rest : List HostAction), p.isMacro = true → s.status.busy = false →
    s.pending = p.expand ++ rest →
    ∃ k t, run k s = .next t ∧ t.pending = rest ∧ t.status.busy = false ∧ t.status.done = true ∧
      match p with
      | .issue _ => False
      | .wait => False
      | .fmul a b => t.res = (gfMul (a.setWidth 4) (b.setWidth 4)).setWidth 8 ∧ t.status.err = 0#3 ∧ t.cnt = s.cnt
      | .finv a =>
        t.cnt = s.cnt ∧
          if a.toNat % 16 = 0 then t.res = 0x00#8 ∧ t.status.err = 1#3
          else t.res.toNat < 16 ∧ gfMul (a.setWidth 4) (t.res.setWidth 4) = 1#4 ∧ t.status.err = 0#3
      | .padd a b => t.res = ptAdd (a.setWidth 8) (b.setWidth 8) ∧ t.status.err = 0#3 ∧ t.cnt = s.cnt
      | .pdbl a => t.res = ptDbl (a.setWidth 8) ∧ t.status.err = 0#3 ∧ t.cnt = s.cnt
      | .smulh a d => t.res = multiple (a.setWidth 8) d.toNat ∧ t.status.err = 0#3 ∧ t.cnt = s.cnt
      | .smull a d => t.res = multiple (a.setWidth 8) d.toNat ∧ t.status.err = 0#3 ∧ t.cnt = s.cnt
      | .order g m n =>
        t.res = s.res ∧
          ((IsOrder (g.setWidth 8) t.cnt.toNat ∧ t.cnt.toNat ≤ m.toNat ∧ t.status.err = 0#3 ∧
              (t.status.isgen = true ↔ t.cnt = n)) ∨
            ((∀ k, IsOrder (g.setWidth 8) k → m.toNat < k) ∧ t.cnt = 0#16 ∧ t.status.err = 2#3 ∧
              t.status.isgen = false))

/-- R218, R83 and R103: a host program made of macros ends, and its end state, the eight registers right after its last
transaction, does not depend on the latencies: two runs from idle states with the same registers have the same end
state, whatever their latencies, latches and issue counts are. So does a program whose last transaction issues without
a WAIT after it; but its end state holds the command in flight, with BUSY = 1 and the results of before, however many
steps follow. -/
def Obligations.EndStateDoesNotDependOnLatency : Prop :=
  (∀ (ps : List Pseudo) (s s' : State), (∀ p ∈ ps, p.isMacro = true) → s.status.busy = false →
    s.registers = s'.registers → s.pending = ps.flatMap Pseudo.expand → s'.pending = ps.flatMap Pseudo.expand →
    ∃ k k' t t', endOfProgram k s = some t ∧ endOfProgram k' s' = some t' ∧ t.pending = [] ∧ t'.pending = [] ∧
      t.status.busy = false ∧ t'.status.busy = false ∧ t.registers = t'.registers ∧
      endState k s = endState k' s') ∧
  (∀ (s : State) (v : Word), s.status.busy = false → s.pending = [wrAction .cmd v] →
    ∃ t, (∀ k, 1 ≤ k → endOfProgram k s = some t) ∧ t.cmd = v ∧ t.status.busy = true ∧ t.status.done = false ∧
      t.status.err = 0#3 ∧ t.status.isgen = s.status.isgen ∧ t.res = s.res ∧ t.cnt = s.cnt ∧ t.opa = s.opa ∧
      t.opb = s.opb ∧ t.opk = s.opk ∧ t.opn = s.opn)

/-- R215 and R83: a host program made of macros that starts idle meets the host's duties for ever: it never writes CMD
while busy and never reads a stale result. -/
def Obligations.MacroProgramsAreOrderly : Prop :=
  ∀ (ps : List Pseudo) (s : State), (∀ p ∈ ps, p.isMacro = true) → s.status.busy = false →
    s.pending = ps.flatMap Pseudo.expand → ∀ k, orderlyRun k s = true

/-! ## Polling on DONE -/

/-- R217 and R59: a poll on DONE after a CMD write that issued ends, and then DONE and the results are that command's
(the moment is the latency's: log 1). -/
def Obligations.DonePollAfterAnIssueEnds : Prop :=
  ∀ (s : State) (v : Word) (rest : List HostAction), s.pending = wrAction .cmd v :: .waitDone :: rest →
    s.status.busy = false →
    ∃ k t u, run k s = .next t ∧ t.pending = rest ∧ t.status.busy = false ∧ t.status.done = true ∧
      exec (decodeCommand v) (s.issue v) = .next u ∧ t.registers = u.registers
end

