-- ==== Sys2Proof/Laws/Units.lean ====
section
/-! SUPPORT. Laws/Units.lean: the first lemmas about the arithmetic units: packing, the ROM, the point functions case by
case, the loops one turn at a time. -/

namespace Sys2Proof.Machine

/-! ## Points (R72) -/

@[simp] theorem ptX_mkpt : ∀ x y : Elt, ptX (mkpt x y) = x := by decide

@[simp] theorem ptY_mkpt : ∀ x y : Elt, ptY (mkpt x y) = y := by decide

@[simp] theorem mkpt_ptX_ptY : ∀ p : Point, mkpt (ptX p) (ptY p) = p := by decide

/-- `is_inf(P)` if and only if P is the byte 0x00 (R131). -/
theorem isInf_iff : ∀ p : Point, isInf p = true ↔ p = inf := by decide

theorem isInf_false_iff (p : Point) : isInf p = false ↔ p ≠ inf := by
  rw [← Bool.not_eq_true, isInf_iff]

/-! ## The inverse ROM (R33, R115) -/

/-- The validity bit is 0 for entry 0 only. -/
theorem romInv_valid : ∀ a : Elt, (romInv a).valid = true ↔ a ≠ 0#4 := by decide

@[simp] theorem gfInv_zero : gfInv 0#4 = none := by decide

/-- For a nonzero element the inverse is the ROM's value. -/
theorem gfInv_of_ne_zero {a : Elt} (h : a ≠ 0#4) : gfInv a = some (romValue a) := by
  simp [gfInv, romValue, (romInv_valid a).2 h]

/-! ## The point functions, case by case (R132, R133) -/

theorem ptDblWith_of_x_zero (inv : Elt → Elt) {p : Point} (h : ptX p = 0#4) : ptDblWith inv p = inf := by
  simp [ptDblWith, h]

theorem ptAddWith_inf_left (inv : Elt → Elt) (q : Point) : ptAddWith inv inf q = q := by
  simp [ptAddWith, (isInf_iff inf).2 rfl]

theorem ptAddWith_inf_right (inv : Elt → Elt) {p : Point} (h : p ≠ inf) : ptAddWith inv p inf = p := by
  simp [ptAddWith, (isInf_iff inf).2 rfl, (isInf_false_iff p).2 h]

theorem ptAddWith_self (inv : Elt → Elt) {p : Point} (h : p ≠ inf) : ptAddWith inv p p = ptDblWith inv p := by
  simp [ptAddWith, (isInf_false_iff p).2 h]

theorem ptAddWith_of_same_x (inv : Elt → Elt) {p q : Point} (hp : p ≠ inf) (hq : q ≠ inf) (hx : ptX p = ptX q)
    (hy : ptY p ≠ ptY q) : ptAddWith inv p q = inf := by
  simp [ptAddWith, (isInf_false_iff p).2 hp, (isInf_false_iff q).2 hq, hx, hy]

/-! ## Orders -/

/-- `IsOrder` in a form that can be evaluated. -/
theorem isOrder_iff (g : Point) (n : Nat) :
    IsOrder g n ↔ 1 ≤ n ∧ multiple g n = inf ∧ ∀ k, k < n → 1 ≤ k → multiple g k ≠ inf :=
  ⟨fun h => ⟨h.1, h.2.1, fun k hk h1 => h.2.2 k h1 hk⟩, fun h => ⟨h.1, h.2.1, fun k h1 hk => h.2.2 k hk h1⟩⟩

/-! ## Loops, one turn at a time -/

@[simp] theorem multiple_zero (g : Point) : multiple g 0 = inf := rfl

theorem multiple_succ (g : Point) (n : Nat) : multiple g (n + 1) = ptAdd (multiple g n) g := rfl

@[simp] theorem h2lLoop_zero (p : Point) (d : Word) (acc : Point) : h2lLoop p d 0 acc = acc := rfl

theorem h2lLoop_succ (p : Point) (d : Word) (i : Nat) (acc : Point) :
    h2lLoop p d (i + 1) acc = h2lLoop p d i (if d.getLsbD i then ptAdd (ptDbl acc) p else ptDbl acc) := rfl

@[simp] theorem l2hLoop_zero (d : Word) (i : Nat) (acc base : Point) : l2hLoop d 0 i acc base = acc := rfl

theorem l2hLoop_succ (d : Word) (n i : Nat) (acc base : Point) :
    l2hLoop d (n + 1) i acc base =
      l2hLoop d n (i + 1) (if d.getLsbD i then ptAdd acc base else acc) (ptDbl base) := rfl

@[simp] theorem orderLoop_zero (g acc : Point) (c : Nat) : orderLoop g 0 acc c = none := rfl

theorem orderLoop_of_inf (g : Point) (n c : Nat) : orderLoop g (n + 1) inf c = some c := rfl

theorem orderLoop_of_ne_inf {g acc : Point} (n c : Nat) (h : acc ≠ inf) :
    orderLoop g (n + 1) acc c = orderLoop g n (ptAdd acc g) (c + 1) := by
  simp [orderLoop, (isInf_false_iff acc).2 h]

end Sys2Proof.Machine
end

