-- ==== Sys2Proof/Laws/Fast.lean ====
section
/-! SUPPORT. Laws/Fast.lean: the field and point functions again, on natural numbers and with the multiplication table
of R112 as one number, proved equal to the model's. A check over many points is evaluated quickly on this form. -/

namespace Sys2Proof.Machine

/-- The table V-MUL as a number: its base-16 digit 16·a + b is the product of a and b. -/
def mulTable : Nat :=
  0xA5783CE1B4692DF05BA48679C23D1FE07AE36BF258C149D0843FD16A2E957BC0386D92C74F1AE5B0C6B1285F394ED7A0E7F6C5D4A3B28190192A7F4CD5E6B380BC5243AD618F9E70428EF93517DBAC6063C914BE8D27FA509D15AE26FB73C8402147ED8B9AFC5630DF9B5713ECA86420FEDCBA98765432100000000000000000

/-- The inverses as a number: its base-16 digit a is the inverse of a, for a from 1 to 15. -/
def invTable : Nat := 0x834A5C2F67BDE910

/-- `gf_mul` by table. -/
def gfMulNat (a b : Nat) : Nat := (mulTable >>> (4 * (16 * a + b))) % 16

/-- The ROM's value for a nonzero element, by table. -/
def romNat (a : Nat) : Nat := (invTable >>> (4 * a)) % 16

theorem gfMul_toNat : ∀ a b : Elt, (gfMul a b).toNat = gfMulNat a.toNat b.toNat := by decide +kernel

theorem romValue_toNat : ∀ a : Elt, a ≠ 0#4 → (romValue a).toNat = romNat a.toNat := by decide +kernel

theorem ptX_toNat : ∀ p : Point, (ptX p).toNat = p.toNat / 16 := by decide

theorem ptY_toNat : ∀ p : Point, (ptY p).toNat = p.toNat % 16 := by decide

theorem mkpt_toNat : ∀ x y : Elt, (mkpt x y).toNat = 16 * x.toNat + y.toNat := by decide

theorem elt_xor_ne_zero : ∀ a b : Elt, a ≠ b → a ^^^ b ≠ 0#4 := by decide

theorem point_toNat_ne_zero {p : Point} (h : p ≠ inf) : p.toNat ≠ 0 := by
  intro h'
  exact h (BitVec.eq_of_toNat_eq h')

/-- The doubled point for the slope `lam`. -/
def dblBySlope (x lam : Nat) : Nat :=
  let x3 := gfMulNat lam lam ^^^ lam ^^^ 8
  16 * x3 + (gfMulNat x x ^^^ gfMulNat lam x3 ^^^ x3)

/-- `pt_dbl` on numbers. -/
def ptDblNat (p : Nat) : Nat :=
  if p / 16 = 0 then 0 else dblBySlope (p / 16) (p / 16 ^^^ gfMulNat (p % 16) (romNat (p / 16)))

/-- The sum of two points with different x for the slope `lam`. -/
def addBySlope (x1 y1 x2 lam : Nat) : Nat :=
  let x3 := gfMulNat lam lam ^^^ lam ^^^ x1 ^^^ x2 ^^^ 8
  16 * x3 + (gfMulNat lam (x1 ^^^ x3) ^^^ x3 ^^^ y1)

/-- `pt_add` on numbers. -/
def ptAddNat (p q : Nat) : Nat :=
  if p = 0 then q
  else if q = 0 then p
  else if p = q then ptDblNat p
  else if p / 16 = q / 16 then 0
  else addBySlope (p / 16) (p % 16) (q / 16) (gfMulNat (p % 16 ^^^ q % 16) (romNat (p / 16 ^^^ q / 16)))

theorem ptDbl_toNat (p : Point) : (ptDbl p).toNat = ptDblNat p.toNat := by
  by_cases h : ptX p = 0#4
  · rw [ptDbl, ptDblWith_of_x_zero _ h, ptDblNat, ← ptX_toNat, h]
    rfl
  · have h2 : p.toNat / 16 ≠ 0 := by
      rw [← ptX_toNat]
      exact fun h3 => h (BitVec.eq_of_toNat_eq h3)
    rw [ptDbl, ptDblWith, ptDblNat, if_neg h, if_neg h2]
    simp only [mkpt_toNat, BitVec.toNat_xor, gfMul_toNat, romValue_toNat _ h, ptX_toNat, ptY_toNat, Config.curveA,
      BitVec.toNat_ofNat, Nat.reducePow, Nat.reduceMod, dblBySlope]

theorem ptAdd_toNat (p q : Point) : (ptAdd p q).toNat = ptAddNat p.toNat q.toNat := by
  by_cases hp : p = inf
  · subst hp
    rw [ptAdd, ptAddWith_inf_left]
    simp [ptAddNat, inf]
  by_cases hq : q = inf
  · subst hq
    rw [ptAdd, ptAddWith_inf_right _ hp]
    simp [ptAddNat, inf]
  rw [ptAddNat, if_neg (point_toNat_ne_zero hp), if_neg (point_toNat_ne_zero hq)]
  by_cases he : p = q
  · subst he
    rw [ptAdd, ptAddWith_self _ hp, if_pos rfl, ← ptDbl_toNat]
    rfl
  rw [if_neg (by rwa [BitVec.toNat_inj])]
  by_cases hx : ptX p = ptX q
  · have hy : ptY p ≠ ptY q := fun hy => he (by rw [← mkpt_ptX_ptY p, hx, hy, mkpt_ptX_ptY])
    rw [ptAdd, ptAddWith_of_same_x _ hp hq hx hy, if_pos (by rw [← ptX_toNat, ← ptX_toNat, hx])]
    rfl
  · rw [if_neg (by rwa [← ptX_toNat, ← ptX_toNat, BitVec.toNat_inj]), ptAdd, ptAddWith]
    simp only [(isInf_false_iff p).2 hp, (isInf_false_iff q).2 hq, hx, false_and, if_false, Bool.false_eq_true,
      mkpt_toNat, BitVec.toNat_xor, gfMul_toNat, romValue_toNat _ (elt_xor_ne_zero _ _ hx), ptX_toNat, ptY_toNat,
      Config.curveA, BitVec.toNat_ofNat, Nat.reducePow, Nat.reduceMod, addBySlope]

/-- A check of every number below `n`, as one Boolean. -/
def checkBelow (n : Nat) (f : Nat → Bool) : Bool :=
  match n with
  | 0 => true
  | k + 1 => f k && checkBelow k f

theorem checkBelow_spec {n : Nat} {f : Nat → Bool} (h : checkBelow n f = true) : ∀ k, k < n → f k = true := by
  induction n with
  | zero => intro k hk; omega
  | succ n ih =>
    intro k hk
    simp only [checkBelow, Bool.and_eq_true] at h
    by_cases hkn : k = n
    · rw [hkn]; exact h.1
    · exact ih h.2 k (by omega)

end Sys2Proof.Machine
end

