-- ==== Sys2Proof/Laws/PerInstr.lean ====
section
/-! SUPPORT. Laws/PerInstr.lean: statements about every instruction as syntax, one lemma per constructor. -/

namespace Sys2Proof.Laws.EncodedForm

/-- The encoding has the form the opcode table gives the instruction's row: a command row's word equals its match word
under the mask 0xFFFF; an illegal word is none of those seven; a record has W = 1 for WR and W = 0 for RD under the mask
0x80000, and its IDX names the register. -/
def Statement (i : Instr) : Prop :=
  i.WellFormed →
    match i with
    | .fmul => encode i = .command 0x0001#16
    | .finv => encode i = .command 0x0002#16
    | .padd => encode i = .command 0x0003#16
    | .pdbl => encode i = .command 0x0004#16
    | .smulh => encode i = .command 0x0005#16
    | .smull => encode i = .command 0x0006#16
    | .order => encode i = .command 0x0007#16
    | .illegal rsv op =>
      ∃ w, encode i = .command w ∧ w.toNat = 16 * rsv.toNat + op.toNat ∧ ¬ (1 ≤ w.toNat ∧ w.toNat ≤ 7)
    | .wr reg data => ∃ r, encode i = .htx r ∧ r.toNat = 2 ^ 19 + 2 ^ 16 * (indexOfReg reg).toNat + data.toNat
    | .rd reg => ∃ r, encode i = .htx r ∧ r.toNat = 2 ^ 16 * (indexOfReg reg).toNat

theorem fmul : Statement .fmul := fun _ => rfl

theorem finv : Statement .finv := fun _ => rfl

theorem padd : Statement .padd := fun _ => rfl

theorem pdbl : Statement .pdbl := fun _ => rfl

theorem smulh : Statement .smulh := fun _ => rfl

theorem smull : Statement .smull := fun _ => rfl

theorem order : Statement .order := fun _ => rfl

/-- A command word's value from its fields (R71). -/
theorem packCommand_toNat (rsv : BitVec 12) (op : BitVec 4) :
    (packCommand rsv op).toNat = 16 * rsv.toNat + op.toNat := by
  have h : op.toNat < 2 ^ 4 := op.isLt
  rw [packCommand, BitVec.toNat_append, ← Nat.shiftLeft_add_eq_or_of_lt h, Nat.shiftLeft_eq]
  omega

/-- A record's value from its fields (R81). -/
theorem packHtx_toNat (w : Bool) (idx : BitVec 3) (data : Word) :
    (packHtx w idx data).toNat = 2 ^ 19 * w.toNat + 2 ^ 16 * idx.toNat + data.toNat := by
  have hd : data.toNat < 2 ^ 16 := data.isLt
  have hi : (idx ++ data).toNat < 2 ^ (3 + 16) := (idx ++ data).isLt
  rw [packHtx, BitVec.toNat_append, ← Nat.shiftLeft_add_eq_or_of_lt hi, BitVec.toNat_append,
    ← Nat.shiftLeft_add_eq_or_of_lt hd, Nat.shiftLeft_eq, Nat.shiftLeft_eq, BitVec.toNat_ofBool]
  omega

theorem illegal (rsv : BitVec 12) (op : BitVec 4) : Statement (.illegal rsv op) := by
  intro h
  refine ⟨_, rfl, packCommand_toNat rsv op, ?_⟩
  rw [packCommand_toNat]
  simp only [Instr.WellFormed, Instr.wellFormed, legalFields, Bool.not_eq_true', Bool.and_eq_false_iff,
    beq_eq_false_iff_ne, decide_eq_false_iff_not, ne_eq, ← BitVec.toNat_inj, BitVec.toNat_ofNat] at h
  have := op.isLt
  omega

theorem wr (reg : Reg) (data : Word) : Statement (.wr reg data) := by
  intro _
  exact ⟨_, rfl, by simp [packHtx_toNat]⟩

theorem rd (reg : Reg) : Statement (.rd reg) := by
  intro _
  exact ⟨_, rfl, by simp [packHtx_toNat]⟩

end Sys2Proof.Laws.EncodedForm
end

