-- ==== Sys2Proof/Laws/State.lean ====
section
/-! SUPPORT. Laws/State.lean: what each update of the state does to each field, one lemma per field and update, so that
no proof unfolds a record update. -/

namespace Sys2Proof.Machine

/-! ## STATUS -/

@[simp] theorem Status.issued_busy (st : Status) : (st.issued).busy = true := rfl
@[simp] theorem Status.issued_done (st : Status) : (st.issued).done = false := rfl
@[simp] theorem Status.issued_err (st : Status) : (st.issued).err = errNone := rfl
@[simp] theorem Status.issued_isgen (st : Status) : (st.issued).isgen = st.isgen := rfl
@[simp] theorem Status.completed_busy (st : Status) (c : BitVec 3) : (st.completed c).busy = false := rfl
@[simp] theorem Status.completed_done (st : Status) (c : BitVec 3) : (st.completed c).done = true := rfl
@[simp] theorem Status.completed_err (st : Status) (c : BitVec 3) : (st.completed c).err = c := rfl
@[simp] theorem Status.completed_isgen (st : Status) (c : BitVec 3) : (st.completed c).isgen = st.isgen := rfl

/-! ## `State.logRead`: a read's value goes to the host and to nothing else (R56) -/

@[simp] theorem State.logRead_cmd (s : State) (v : Word) : (s.logRead v).cmd = s.cmd := rfl
@[simp] theorem State.logRead_status (s : State) (v : Word) : (s.logRead v).status = s.status := rfl
@[simp] theorem State.logRead_opa (s : State) (v : Word) : (s.logRead v).opa = s.opa := rfl
@[simp] theorem State.logRead_opb (s : State) (v : Word) : (s.logRead v).opb = s.opb := rfl
@[simp] theorem State.logRead_opk (s : State) (v : Word) : (s.logRead v).opk = s.opk := rfl
@[simp] theorem State.logRead_opn (s : State) (v : Word) : (s.logRead v).opn = s.opn := rfl
@[simp] theorem State.logRead_res (s : State) (v : Word) : (s.logRead v).res = s.res := rfl
@[simp] theorem State.logRead_cnt (s : State) (v : Word) : (s.logRead v).cnt = s.cnt := rfl
@[simp] theorem State.logRead_latCmd (s : State) (v : Word) : (s.logRead v).latCmd = s.latCmd := rfl
@[simp] theorem State.logRead_latA (s : State) (v : Word) : (s.logRead v).latA = s.latA := rfl
@[simp] theorem State.logRead_latB (s : State) (v : Word) : (s.logRead v).latB = s.latB := rfl
@[simp] theorem State.logRead_latK (s : State) (v : Word) : (s.logRead v).latK = s.latK := rfl
@[simp] theorem State.logRead_latN (s : State) (v : Word) : (s.logRead v).latN = s.latN := rfl
@[simp] theorem State.logRead_pending (s : State) (v : Word) : (s.logRead v).pending = s.pending := rfl
@[simp] theorem State.logRead_reads (s : State) (v : Word) : (s.logRead v).reads = v :: s.reads := rfl
@[simp] theorem State.logRead_due (s : State) (v : Word) : (s.logRead v).due = s.due := rfl
@[simp] theorem State.logRead_latencies (s : State) (v : Word) : (s.logRead v).latencies = s.latencies := rfl
@[simp] theorem State.logRead_issues (s : State) (v : Word) : (s.logRead v).issues = s.issues := rfl
@[simp] theorem State.logRead_cmdLost (s : State) (v : Word) : (s.logRead v).cmdLost = s.cmdLost := rfl

/-! ## `State.issueRegs`: the registers' part of ISSUE (R94) -/

@[simp] theorem State.issueRegs_cmd (s : State) (v : Word) : (s.issueRegs v).cmd = v := rfl
@[simp] theorem State.issueRegs_status (s : State) (v : Word) : (s.issueRegs v).status = s.status.issued := rfl
@[simp] theorem State.issueRegs_opa (s : State) (v : Word) : (s.issueRegs v).opa = s.opa := rfl
@[simp] theorem State.issueRegs_opb (s : State) (v : Word) : (s.issueRegs v).opb = s.opb := rfl
@[simp] theorem State.issueRegs_opk (s : State) (v : Word) : (s.issueRegs v).opk = s.opk := rfl
@[simp] theorem State.issueRegs_opn (s : State) (v : Word) : (s.issueRegs v).opn = s.opn := rfl
@[simp] theorem State.issueRegs_res (s : State) (v : Word) : (s.issueRegs v).res = s.res := rfl
@[simp] theorem State.issueRegs_cnt (s : State) (v : Word) : (s.issueRegs v).cnt = s.cnt := rfl
@[simp] theorem State.issueRegs_latCmd (s : State) (v : Word) : (s.issueRegs v).latCmd = v := rfl
@[simp] theorem State.issueRegs_latA (s : State) (v : Word) : (s.issueRegs v).latA = s.opa := rfl
@[simp] theorem State.issueRegs_latB (s : State) (v : Word) : (s.issueRegs v).latB = s.opb := rfl
@[simp] theorem State.issueRegs_latK (s : State) (v : Word) : (s.issueRegs v).latK = s.opk := rfl
@[simp] theorem State.issueRegs_latN (s : State) (v : Word) : (s.issueRegs v).latN = s.opn := rfl
@[simp] theorem State.issueRegs_pending (s : State) (v : Word) : (s.issueRegs v).pending = s.pending := rfl
@[simp] theorem State.issueRegs_reads (s : State) (v : Word) : (s.issueRegs v).reads = s.reads := rfl
@[simp] theorem State.issueRegs_due (s : State) (v : Word) : (s.issueRegs v).due = s.due := rfl
@[simp] theorem State.issueRegs_latencies (s : State) (v : Word) : (s.issueRegs v).latencies = s.latencies := rfl
@[simp] theorem State.issueRegs_issues (s : State) (v : Word) : (s.issueRegs v).issues = s.issues := rfl
@[simp] theorem State.issueRegs_cmdLost (s : State) (v : Word) : (s.issueRegs v).cmdLost = s.cmdLost := rfl

/-! ## `State.issue`: ISSUE (R94, R218) -/

@[simp] theorem State.issue_cmd (s : State) (v : Word) : (s.issue v).cmd = v := rfl
@[simp] theorem State.issue_status (s : State) (v : Word) : (s.issue v).status = s.status.issued := rfl
@[simp] theorem State.issue_opa (s : State) (v : Word) : (s.issue v).opa = s.opa := rfl
@[simp] theorem State.issue_opb (s : State) (v : Word) : (s.issue v).opb = s.opb := rfl
@[simp] theorem State.issue_opk (s : State) (v : Word) : (s.issue v).opk = s.opk := rfl
@[simp] theorem State.issue_opn (s : State) (v : Word) : (s.issue v).opn = s.opn := rfl
@[simp] theorem State.issue_res (s : State) (v : Word) : (s.issue v).res = s.res := rfl
@[simp] theorem State.issue_cnt (s : State) (v : Word) : (s.issue v).cnt = s.cnt := rfl
@[simp] theorem State.issue_latCmd (s : State) (v : Word) : (s.issue v).latCmd = v := rfl
@[simp] theorem State.issue_latA (s : State) (v : Word) : (s.issue v).latA = s.opa := rfl
@[simp] theorem State.issue_latB (s : State) (v : Word) : (s.issue v).latB = s.opb := rfl
@[simp] theorem State.issue_latK (s : State) (v : Word) : (s.issue v).latK = s.opk := rfl
@[simp] theorem State.issue_latN (s : State) (v : Word) : (s.issue v).latN = s.opn := rfl
@[simp] theorem State.issue_pending (s : State) (v : Word) : (s.issue v).pending = s.pending := rfl
@[simp] theorem State.issue_reads (s : State) (v : Word) : (s.issue v).reads = s.reads := rfl
@[simp] theorem State.issue_due (s : State) (v : Word) : (s.issue v).due = s.nextLatency := rfl
@[simp] theorem State.issue_latencies (s : State) (v : Word) : (s.issue v).latencies = s.latencies.tail := rfl
@[simp] theorem State.issue_issues (s : State) (v : Word) : (s.issue v).issues = s.issues + 1 := rfl
@[simp] theorem State.issue_cmdLost (s : State) (v : Word) : (s.issue v).cmdLost = s.cmdLost := rfl

/-! ## `State.setRes`: a result goes to RES (R102) -/

@[simp] theorem State.setRes_cmd (s : State) (v : BitVec 8) : (s.setRes v).cmd = s.cmd := rfl
@[simp] theorem State.setRes_status (s : State) (v : BitVec 8) : (s.setRes v).status = s.status := rfl
@[simp] theorem State.setRes_opa (s : State) (v : BitVec 8) : (s.setRes v).opa = s.opa := rfl
@[simp] theorem State.setRes_opb (s : State) (v : BitVec 8) : (s.setRes v).opb = s.opb := rfl
@[simp] theorem State.setRes_opk (s : State) (v : BitVec 8) : (s.setRes v).opk = s.opk := rfl
@[simp] theorem State.setRes_opn (s : State) (v : BitVec 8) : (s.setRes v).opn = s.opn := rfl
@[simp] theorem State.setRes_res (s : State) (v : BitVec 8) : (s.setRes v).res = v := rfl
@[simp] theorem State.setRes_cnt (s : State) (v : BitVec 8) : (s.setRes v).cnt = s.cnt := rfl
@[simp] theorem State.setRes_latCmd (s : State) (v : BitVec 8) : (s.setRes v).latCmd = s.latCmd := rfl
@[simp] theorem State.setRes_latA (s : State) (v : BitVec 8) : (s.setRes v).latA = s.latA := rfl
@[simp] theorem State.setRes_latB (s : State) (v : BitVec 8) : (s.setRes v).latB = s.latB := rfl
@[simp] theorem State.setRes_latK (s : State) (v : BitVec 8) : (s.setRes v).latK = s.latK := rfl
@[simp] theorem State.setRes_latN (s : State) (v : BitVec 8) : (s.setRes v).latN = s.latN := rfl
@[simp] theorem State.setRes_pending (s : State) (v : BitVec 8) : (s.setRes v).pending = s.pending := rfl
@[simp] theorem State.setRes_reads (s : State) (v : BitVec 8) : (s.setRes v).reads = s.reads := rfl
@[simp] theorem State.setRes_due (s : State) (v : BitVec 8) : (s.setRes v).due = s.due := rfl
@[simp] theorem State.setRes_latencies (s : State) (v : BitVec 8) : (s.setRes v).latencies = s.latencies := rfl
@[simp] theorem State.setRes_issues (s : State) (v : BitVec 8) : (s.setRes v).issues = s.issues := rfl
@[simp] theorem State.setRes_cmdLost (s : State) (v : BitVec 8) : (s.setRes v).cmdLost = s.cmdLost := rfl

/-! ## `State.setOrder`: ORDER's result goes to CNT and ISGEN (R102) -/

@[simp] theorem State.setOrder_cmd (s : State) (n : Word) (g : Bool) : (s.setOrder n g).cmd = s.cmd := rfl
@[simp] theorem State.setOrder_status (s : State) (n : Word) (g : Bool) : (s.setOrder n g).status = { s.status with isgen := g } := rfl
@[simp] theorem State.setOrder_opa (s : State) (n : Word) (g : Bool) : (s.setOrder n g).opa = s.opa := rfl
@[simp] theorem State.setOrder_opb (s : State) (n : Word) (g : Bool) : (s.setOrder n g).opb = s.opb := rfl
@[simp] theorem State.setOrder_opk (s : State) (n : Word) (g : Bool) : (s.setOrder n g).opk = s.opk := rfl
@[simp] theorem State.setOrder_opn (s : State) (n : Word) (g : Bool) : (s.setOrder n g).opn = s.opn := rfl
@[simp] theorem State.setOrder_res (s : State) (n : Word) (g : Bool) : (s.setOrder n g).res = s.res := rfl
@[simp] theorem State.setOrder_cnt (s : State) (n : Word) (g : Bool) : (s.setOrder n g).cnt = n := rfl
@[simp] theorem State.setOrder_latCmd (s : State) (n : Word) (g : Bool) : (s.setOrder n g).latCmd = s.latCmd := rfl
@[simp] theorem State.setOrder_latA (s : State) (n : Word) (g : Bool) : (s.setOrder n g).latA = s.latA := rfl
@[simp] theorem State.setOrder_latB (s : State) (n : Word) (g : Bool) : (s.setOrder n g).latB = s.latB := rfl
@[simp] theorem State.setOrder_latK (s : State) (n : Word) (g : Bool) : (s.setOrder n g).latK = s.latK := rfl
@[simp] theorem State.setOrder_latN (s : State) (n : Word) (g : Bool) : (s.setOrder n g).latN = s.latN := rfl
@[simp] theorem State.setOrder_pending (s : State) (n : Word) (g : Bool) : (s.setOrder n g).pending = s.pending := rfl
@[simp] theorem State.setOrder_reads (s : State) (n : Word) (g : Bool) : (s.setOrder n g).reads = s.reads := rfl
@[simp] theorem State.setOrder_due (s : State) (n : Word) (g : Bool) : (s.setOrder n g).due = s.due := rfl
@[simp] theorem State.setOrder_latencies (s : State) (n : Word) (g : Bool) : (s.setOrder n g).latencies = s.latencies := rfl
@[simp] theorem State.setOrder_issues (s : State) (n : Word) (g : Bool) : (s.setOrder n g).issues = s.issues := rfl
@[simp] theorem State.setOrder_cmdLost (s : State) (n : Word) (g : Bool) : (s.setOrder n g).cmdLost = s.cmdLost := rfl

/-! ## `State.finish`: the end of COMPLETE writes STATUS only (R96) -/

@[simp] theorem State.finish_cmd (s : State) (c : BitVec 3) : (s.finish c).cmd = s.cmd := rfl
@[simp] theorem State.finish_status (s : State) (c : BitVec 3) : (s.finish c).status = s.status.completed c := rfl
@[simp] theorem State.finish_opa (s : State) (c : BitVec 3) : (s.finish c).opa = s.opa := rfl
@[simp] theorem State.finish_opb (s : State) (c : BitVec 3) : (s.finish c).opb = s.opb := rfl
@[simp] theorem State.finish_opk (s : State) (c : BitVec 3) : (s.finish c).opk = s.opk := rfl
@[simp] theorem State.finish_opn (s : State) (c : BitVec 3) : (s.finish c).opn = s.opn := rfl
@[simp] theorem State.finish_res (s : State) (c : BitVec 3) : (s.finish c).res = s.res := rfl
@[simp] theorem State.finish_cnt (s : State) (c : BitVec 3) : (s.finish c).cnt = s.cnt := rfl
@[simp] theorem State.finish_latCmd (s : State) (c : BitVec 3) : (s.finish c).latCmd = s.latCmd := rfl
@[simp] theorem State.finish_latA (s : State) (c : BitVec 3) : (s.finish c).latA = s.latA := rfl
@[simp] theorem State.finish_latB (s : State) (c : BitVec 3) : (s.finish c).latB = s.latB := rfl
@[simp] theorem State.finish_latK (s : State) (c : BitVec 3) : (s.finish c).latK = s.latK := rfl
@[simp] theorem State.finish_latN (s : State) (c : BitVec 3) : (s.finish c).latN = s.latN := rfl
@[simp] theorem State.finish_pending (s : State) (c : BitVec 3) : (s.finish c).pending = s.pending := rfl
@[simp] theorem State.finish_reads (s : State) (c : BitVec 3) : (s.finish c).reads = s.reads := rfl
@[simp] theorem State.finish_due (s : State) (c : BitVec 3) : (s.finish c).due = s.due := rfl
@[simp] theorem State.finish_latencies (s : State) (c : BitVec 3) : (s.finish c).latencies = s.latencies := rfl
@[simp] theorem State.finish_issues (s : State) (c : BitVec 3) : (s.finish c).issues = s.issues := rfl
@[simp] theorem State.finish_cmdLost (s : State) (c : BitVec 3) : (s.finish c).cmdLost = s.cmdLost := rfl

/-! ## `State.noteCmdWrite`: a CMD write is noted as dropped or not (R97, R217) -/

@[simp] theorem State.noteCmdWrite_cmd (s : State) (i : Instr) : (s.noteCmdWrite i).cmd = s.cmd := rfl
@[simp] theorem State.noteCmdWrite_status (s : State) (i : Instr) : (s.noteCmdWrite i).status = s.status := rfl
@[simp] theorem State.noteCmdWrite_opa (s : State) (i : Instr) : (s.noteCmdWrite i).opa = s.opa := rfl
@[simp] theorem State.noteCmdWrite_opb (s : State) (i : Instr) : (s.noteCmdWrite i).opb = s.opb := rfl
@[simp] theorem State.noteCmdWrite_opk (s : State) (i : Instr) : (s.noteCmdWrite i).opk = s.opk := rfl
@[simp] theorem State.noteCmdWrite_opn (s : State) (i : Instr) : (s.noteCmdWrite i).opn = s.opn := rfl
@[simp] theorem State.noteCmdWrite_res (s : State) (i : Instr) : (s.noteCmdWrite i).res = s.res := rfl
@[simp] theorem State.noteCmdWrite_cnt (s : State) (i : Instr) : (s.noteCmdWrite i).cnt = s.cnt := rfl
@[simp] theorem State.noteCmdWrite_latCmd (s : State) (i : Instr) : (s.noteCmdWrite i).latCmd = s.latCmd := rfl
@[simp] theorem State.noteCmdWrite_latA (s : State) (i : Instr) : (s.noteCmdWrite i).latA = s.latA := rfl
@[simp] theorem State.noteCmdWrite_latB (s : State) (i : Instr) : (s.noteCmdWrite i).latB = s.latB := rfl
@[simp] theorem State.noteCmdWrite_latK (s : State) (i : Instr) : (s.noteCmdWrite i).latK = s.latK := rfl
@[simp] theorem State.noteCmdWrite_latN (s : State) (i : Instr) : (s.noteCmdWrite i).latN = s.latN := rfl
@[simp] theorem State.noteCmdWrite_pending (s : State) (i : Instr) : (s.noteCmdWrite i).pending = s.pending := rfl
@[simp] theorem State.noteCmdWrite_reads (s : State) (i : Instr) : (s.noteCmdWrite i).reads = s.reads := rfl
@[simp] theorem State.noteCmdWrite_due (s : State) (i : Instr) : (s.noteCmdWrite i).due = s.due := rfl
@[simp] theorem State.noteCmdWrite_latencies (s : State) (i : Instr) : (s.noteCmdWrite i).latencies = s.latencies := rfl
@[simp] theorem State.noteCmdWrite_issues (s : State) (i : Instr) : (s.noteCmdWrite i).issues = s.issues := rfl
@[simp] theorem State.noteCmdWrite_cmdLost (s : State) (i : Instr) : (s.noteCmdWrite i).cmdLost = if writesCmd i then s.status.busy else s.cmdLost := rfl

/-! ## `State.hostTurn`: a host transaction begins (R218) -/

@[simp] theorem State.hostTurn_cmd (s : State) (rest : List HostAction) : (s.hostTurn rest).cmd = s.cmd := rfl
@[simp] theorem State.hostTurn_status (s : State) (rest : List HostAction) : (s.hostTurn rest).status = s.status := rfl
@[simp] theorem State.hostTurn_opa (s : State) (rest : List HostAction) : (s.hostTurn rest).opa = s.opa := rfl
@[simp] theorem State.hostTurn_opb (s : State) (rest : List HostAction) : (s.hostTurn rest).opb = s.opb := rfl
@[simp] theorem State.hostTurn_opk (s : State) (rest : List HostAction) : (s.hostTurn rest).opk = s.opk := rfl
@[simp] theorem State.hostTurn_opn (s : State) (rest : List HostAction) : (s.hostTurn rest).opn = s.opn := rfl
@[simp] theorem State.hostTurn_res (s : State) (rest : List HostAction) : (s.hostTurn rest).res = s.res := rfl
@[simp] theorem State.hostTurn_cnt (s : State) (rest : List HostAction) : (s.hostTurn rest).cnt = s.cnt := rfl
@[simp] theorem State.hostTurn_latCmd (s : State) (rest : List HostAction) : (s.hostTurn rest).latCmd = s.latCmd := rfl
@[simp] theorem State.hostTurn_latA (s : State) (rest : List HostAction) : (s.hostTurn rest).latA = s.latA := rfl
@[simp] theorem State.hostTurn_latB (s : State) (rest : List HostAction) : (s.hostTurn rest).latB = s.latB := rfl
@[simp] theorem State.hostTurn_latK (s : State) (rest : List HostAction) : (s.hostTurn rest).latK = s.latK := rfl
@[simp] theorem State.hostTurn_latN (s : State) (rest : List HostAction) : (s.hostTurn rest).latN = s.latN := rfl
@[simp] theorem State.hostTurn_pending (s : State) (rest : List HostAction) : (s.hostTurn rest).pending = rest := rfl
@[simp] theorem State.hostTurn_reads (s : State) (rest : List HostAction) : (s.hostTurn rest).reads = s.reads := rfl
@[simp] theorem State.hostTurn_due (s : State) (rest : List HostAction) : (s.hostTurn rest).due = s.due - 1 := rfl
@[simp] theorem State.hostTurn_latencies (s : State) (rest : List HostAction) : (s.hostTurn rest).latencies = s.latencies := rfl
@[simp] theorem State.hostTurn_issues (s : State) (rest : List HostAction) : (s.hostTurn rest).issues = s.issues := rfl
@[simp] theorem State.hostTurn_cmdLost (s : State) (rest : List HostAction) : (s.hostTurn rest).cmdLost = s.cmdLost := rfl

/-! ## `State.resetCore`: RESET (R210) -/

@[simp] theorem State.resetCore_cmd (s : State) : s.resetCore.cmd = State.reset.cmd := rfl
@[simp] theorem State.resetCore_status (s : State) : s.resetCore.status = State.reset.status := rfl
@[simp] theorem State.resetCore_opa (s : State) : s.resetCore.opa = State.reset.opa := rfl
@[simp] theorem State.resetCore_opb (s : State) : s.resetCore.opb = State.reset.opb := rfl
@[simp] theorem State.resetCore_opk (s : State) : s.resetCore.opk = State.reset.opk := rfl
@[simp] theorem State.resetCore_opn (s : State) : s.resetCore.opn = State.reset.opn := rfl
@[simp] theorem State.resetCore_res (s : State) : s.resetCore.res = State.reset.res := rfl
@[simp] theorem State.resetCore_cnt (s : State) : s.resetCore.cnt = State.reset.cnt := rfl
@[simp] theorem State.resetCore_latCmd (s : State) : s.resetCore.latCmd = State.reset.latCmd := rfl
@[simp] theorem State.resetCore_latA (s : State) : s.resetCore.latA = State.reset.latA := rfl
@[simp] theorem State.resetCore_latB (s : State) : s.resetCore.latB = State.reset.latB := rfl
@[simp] theorem State.resetCore_latK (s : State) : s.resetCore.latK = State.reset.latK := rfl
@[simp] theorem State.resetCore_latN (s : State) : s.resetCore.latN = State.reset.latN := rfl
@[simp] theorem State.resetCore_pending (s : State) : s.resetCore.pending = s.pending := rfl
@[simp] theorem State.resetCore_reads (s : State) : s.resetCore.reads = s.reads := rfl
@[simp] theorem State.resetCore_due (s : State) : s.resetCore.due = State.reset.due := rfl
@[simp] theorem State.resetCore_latencies (s : State) : s.resetCore.latencies = s.latencies := rfl
@[simp] theorem State.resetCore_issues (s : State) : s.resetCore.issues = s.issues := rfl
@[simp] theorem State.resetCore_cmdLost (s : State) : s.resetCore.cmdLost = State.reset.cmdLost := rfl

/-! ## `State.portWrite`, register by register (R92) -/

@[simp] theorem State.portWrite_cmd (s : State) (v : Word) : s.portWrite .cmd v = s.writeCmd v := rfl
@[simp] theorem State.portWrite_status (s : State) (v : Word) : s.portWrite .status v = s := rfl
@[simp] theorem State.portWrite_opa (s : State) (v : Word) : s.portWrite .opa v = { s with opa := v.setWidth 8 } := rfl
@[simp] theorem State.portWrite_opb (s : State) (v : Word) : s.portWrite .opb v = { s with opb := v.setWidth 8 } := rfl
@[simp] theorem State.portWrite_opk (s : State) (v : Word) : s.portWrite .opk v = { s with opk := v } := rfl
@[simp] theorem State.portWrite_opn (s : State) (v : Word) : s.portWrite .opn v = { s with opn := v } := rfl
@[simp] theorem State.portWrite_res (s : State) (v : Word) : s.portWrite .res v = s := rfl
@[simp] theorem State.portWrite_cnt (s : State) (v : Word) : s.portWrite .cnt v = s := rfl

/-- A CMD write while a command is in flight is dropped (R97). -/
theorem State.writeCmd_of_busy {s : State} (v : Word) (h : s.status.busy = true) : s.writeCmd v = s := by
  simp [State.writeCmd, h]

/-- A CMD write while idle issues (R94). -/
theorem State.writeCmd_of_idle {s : State} (v : Word) (h : s.status.busy = false) : s.writeCmd v = s.issue v := by
  simp [State.writeCmd, h]

/-! ## `State.portRead`, register by register (R93) -/

@[simp] theorem State.portRead_cmd (s : State) : s.portRead .cmd = s.cmd := rfl
@[simp] theorem State.portRead_status (s : State) : s.portRead .status = s.status.word := rfl
@[simp] theorem State.portRead_opa (s : State) : s.portRead .opa = s.opa.setWidth 16 := rfl
@[simp] theorem State.portRead_opb (s : State) : s.portRead .opb = s.opb.setWidth 16 := rfl
@[simp] theorem State.portRead_opk (s : State) : s.portRead .opk = s.opk := rfl
@[simp] theorem State.portRead_opn (s : State) : s.portRead .opn = s.opn := rfl
@[simp] theorem State.portRead_res (s : State) : s.portRead .res = s.res.setWidth 16 := rfl
@[simp] theorem State.portRead_cnt (s : State) : s.portRead .cnt = s.cnt := rfl

/-- What a port write can do (R92): nothing, an issue, or a store to one operand register. -/
theorem State.portWrite_cases (s : State) (r : Reg) (v : Word) :
    (s.portWrite r v = s ∧ (r = .cmd → s.status.busy = true)) ∨
      (r = .cmd ∧ s.status.busy = false ∧ s.portWrite r v = s.issue v) ∨
      (r = .opa ∧ s.portWrite r v = { s with opa := v.setWidth 8 }) ∨
      (r = .opb ∧ s.portWrite r v = { s with opb := v.setWidth 8 }) ∨
      (r = .opk ∧ s.portWrite r v = { s with opk := v }) ∨
      (r = .opn ∧ s.portWrite r v = { s with opn := v }) := by
  cases r
  case cmd =>
    cases h : s.status.busy
    · simp [State.writeCmd_of_idle v h]
    · simp [State.writeCmd_of_busy v h]
  all_goals simp

/-! ## Operands (R72 to R76) -/

@[simp] theorem State.eltA_eq (s : State) : s.eltA = s.latA.extractLsb' 0 4 := rfl
@[simp] theorem State.eltB_eq (s : State) : s.eltB = s.latB.extractLsb' 0 4 := rfl
@[simp] theorem State.pointA_eq (s : State) : s.pointA = s.latA := rfl
@[simp] theorem State.pointB_eq (s : State) : s.pointB = s.latB := rfl
@[simp] theorem State.scalar_eq (s : State) : s.scalar = s.latK := rfl
@[simp] theorem State.bound_eq (s : State) : s.bound = s.latK := rfl
@[simp] theorem State.cardinality_eq (s : State) : s.cardinality = s.latN := rfl

end Sys2Proof.Machine
end

