-- ==== Sys2Proof/Laws/Step.lean ====
section
/-! SUPPORT. Laws/Step.lean: everything one step can do, said once: whose turn it is, and what each meaning answers. -/

namespace Sys2Proof.Machine

/-! ## Whose turn it is (R58, R96, R218) -/

theorem State.completes_iff (s : State) :
    s.completes = true ↔ s.status.busy = true ∧ (s.due = 0 ∨ s.pending = []) := by
  simp [State.completes]

theorem State.completes_of_idle {s : State} (h : s.status.busy = false) : s.completes = false := by
  simp [State.completes, h]

theorem State.turn_of_completes {s : State} (h : s.completes = true) :
    s.turn = .run (decodeCommand s.latCmd) s := by
  simp [State.turn, h]

theorem State.turn_of_nil {s : State} (h : s.completes = false) (hp : s.pending = []) : s.turn = .stay s := by
  simp [State.turn, h, hp]

/-- A record writes CMD when its bits 19 to 16 are W = 1 and IDX = 0 (R81). -/
theorem writesCmd_decodeHtx (r : Htx) : writesCmd (decodeHtx r) = decide (r.toNat / 2 ^ 16 = 8) := by
  have hw : htxW r = decide (r.toNat / 2 ^ 19 % 2 = 1) := by
    simp [htxW, BitVec.getLsbD, Nat.testBit, Nat.shiftRight_eq_div_pow, Nat.one_and_eq_mod_two]
    rcases Nat.mod_two_eq_zero_or_one (r.toNat / 524288) with h | h <;> simp [h]
  have hi : ∀ i : BitVec 3, (regOfIndex i == Reg.cmd) = decide (i.toNat = 0) := by decide
  have hx : (htxIdx r).toNat = r.toNat / 2 ^ 16 % 8 := by simp [htxIdx, Nat.shiftRight_eq_div_pow]
  have hr := r.isLt
  cases h : htxW r
  · rw [h] at hw
    have : ¬ r.toNat / 2 ^ 16 = 8 := by simp at hw; omega
    simp [decodeHtx, h, writesCmd] at this ⊢
    exact this
  · rw [h] at hw
    simp [decodeHtx, h, writesCmd, hi, hx] at hw ⊢
    omega

/-- What the host's turn at a record leaves for the instruction: the note of a CMD write is read off the record's
bits. -/
theorem State.hostTurn_noteCmdWrite (s : State) (rest : List HostAction) (r : Htx) :
    (s.hostTurn rest).noteCmdWrite (decodeHtx r) =
      { s with pending := rest, due := s.due - 1,
               cmdLost := if r.toNat / 2 ^ 16 = 8 then s.status.busy else s.cmdLost } := by
  simp [State.noteCmdWrite, State.hostTurn, writesCmd_decodeHtx]

theorem State.turn_of_htx {s : State} {r : Htx} {rest : List HostAction} (h : s.completes = false)
    (hp : s.pending = .htx r :: rest) :
    s.turn = .run (decodeHtx r) ((s.hostTurn rest).noteCmdWrite (decodeHtx r)) := by
  simp [State.turn, h, hp]

theorem State.turn_of_reset {s : State} {rest : List HostAction} (h : s.completes = false)
    (hp : s.pending = .reset :: rest) : s.turn = .stay { s.resetCore with pending := rest } := by
  simp [State.turn, h, hp]

/-- A read of STATUS asks WAIT for another round exactly while BUSY is 1 (R83, R93). -/
@[simp] theorem pollsBusyAgain_word (st : Status) : pollsBusyAgain st.word = st.busy := by
  rcases st with ⟨b, d, e, g⟩
  revert b d e g
  decide

/-- The poll on DONE goes another round exactly while DONE is 0 or the host's last CMD write was dropped (R217, R93). -/
@[simp] theorem pollsDoneAgain_word (st : Status) (lost : Bool) : pollsDoneAgain st.word lost = (!st.done || lost) := by
  rcases st with ⟨b, d, e, g⟩
  revert b d e g lost
  decide

theorem State.turn_of_waitBusy {s : State} {rest : List HostAction} (h : s.completes = false)
    (hp : s.pending = .waitBusy :: rest) :
    s.turn = .run (.rd .status) (s.hostTurn (if s.status.busy then .waitBusy :: rest else rest)) := by
  simp [State.turn, h, hp]

theorem State.turn_of_waitDone {s : State} {rest : List HostAction} (h : s.completes = false)
    (hp : s.pending = .waitDone :: rest) :
    s.turn =
      .run (.rd .status) (s.hostTurn (if s.status.done && !s.cmdLost then rest else .waitDone :: rest)) := by
  cases hd : s.status.done <;> cases hl : s.cmdLost <;> simp [State.turn, h, hp, hd, hl]

/-- What the next turn can be: COMPLETE, a transaction or poll of the host, RESET, or nothing. -/
theorem State.turn_cases (s : State) :
    (s.completes = true ∧ s.turn = .run (decodeCommand s.latCmd) s) ∨
      (s.completes = false ∧ ∃ r rest, s.pending = .htx r :: rest ∧
        s.turn = .run (decodeHtx r) ((s.hostTurn rest).noteCmdWrite (decodeHtx r))) ∨
      (s.completes = false ∧ s.pending ≠ [] ∧ ∃ rest, s.turn = .run (.rd .status) (s.hostTurn rest)) ∨
      (s.completes = false ∧ ∃ rest, s.pending = .reset :: rest ∧
        s.turn = .stay { s.resetCore with pending := rest }) ∨
      (s.completes = false ∧ s.pending = [] ∧ s.turn = .stay s) := by
  cases h : s.completes
  · cases hp : s.pending with
    | nil => exact .inr (.inr (.inr (.inr ⟨rfl, rfl, State.turn_of_nil h hp⟩)))
    | cons a rest =>
      cases a with
      | htx r => exact .inr (.inl ⟨rfl, r, rest, rfl, State.turn_of_htx h hp⟩)
      | waitBusy => exact .inr (.inr (.inl ⟨rfl, by simp, _, State.turn_of_waitBusy h hp⟩))
      | waitDone => exact .inr (.inr (.inl ⟨rfl, by simp, _, State.turn_of_waitDone h hp⟩))
      | reset => exact .inr (.inr (.inr (.inl ⟨rfl, rest, rfl, State.turn_of_reset h hp⟩)))
  · exact .inl ⟨rfl, State.turn_of_completes h⟩

theorem step_of_run {s t : State} {i : Instr} (h : s.turn = .run i t) : step s = exec i t := by
  simp [step, h]

theorem step_of_stay {s t : State} (h : s.turn = .stay t) : step s = .next t := by
  simp [step, h]

/-! ## What each meaning answers -/

theorem exec_wr (r : Reg) (v : Word) (s : State) : exec (.wr r v) s = .next (s.portWrite r v) := rfl

theorem exec_rd (r : Reg) (s : State) : exec (.rd r) s = .next (s.logRead (s.portRead r)) := rfl

theorem exec_finv_of_zero {s : State} (h : gfInv s.eltA = none) :
    exec .finv s = .next ((s.setRes 0x00#8).finish errNoInverse) := by
  simp [exec, execFinv, -State.eltA_eq, h]

theorem exec_finv_of_some {s : State} {r : Elt} (h : gfInv s.eltA = some r) :
    exec .finv s = .next ((s.setRes (eltResult r)).finish errNone) := by
  simp [exec, execFinv, -State.eltA_eq, h]

theorem exec_order_of_none {s : State} (h : orderOf s.pointA s.bound = none) :
    exec .order s = .next ((s.setOrder 0x0000#16 false).finish errOrderNotFound) := by
  simp [exec, execOrder, -State.pointA_eq, -State.bound_eq, h, generatorVerdict]

theorem exec_order_of_some {s : State} {n : Nat} (h : orderOf s.pointA s.bound = some n) :
    exec .order s =
      .next ((s.setOrder (BitVec.ofNat 16 n) (BitVec.ofNat 16 n == s.cardinality)).finish errNone) := by
  simp [exec, execOrder, -State.pointA_eq, -State.bound_eq, h, generatorVerdict]

/-! ## Runs -/

@[simp] theorem run_zero (s : State) : run 0 s = .next s := rfl

theorem run_succ {s t : State} (k : Nat) (h : step s = .next t) : run (k + 1) s = run k t := by
  show Host.Core.run Sys2Proof.core (k + 1) s = _
  simp only [Host.Core.run, Sys2Proof.core] at *
  simp [h, run, Sys2Proof.core]

/-- Two runs one after the other. -/
theorem run_add {s t : State} (j k : Nat) (h : run j s = .next t) : run (j + k) s = run k t := by
  induction j generalizing s with
  | zero => simp at h; simp [h]
  | succ j ih =>
    cases hs : step s with
    | next u =>
      rw [run_succ j hs] at h
      rw [Nat.add_right_comm, run_succ _ hs, ih h]
    | fault f => exact nomatch f
    | refused r => simp [run, Host.Core.run, Sys2Proof.core, hs] at h

/-! ## The end of a host program (R103) -/

theorem State.hostDone_of_nil {s : State} (h : s.pending = []) : s.hostDone = true := by
  simp [State.hostDone, h]

theorem State.hostDone_of_cons {s : State} {a : HostAction} {rest : List HostAction} (h : s.pending = a :: rest)
    (ha : a ≠ .reset) : s.hostDone = false := by
  cases a <;> simp_all [State.hostDone, HostAction.isReset]

/-- The eight registers agree where the fields do. -/
theorem State.registers_congr {s t : State} (hcmd : s.cmd = t.cmd) (hst : s.status = t.status) (ha : s.opa = t.opa)
    (hb : s.opb = t.opb) (hk : s.opk = t.opk) (hn : s.opn = t.opn) (hr : s.res = t.res) (hc : s.cnt = t.cnt) :
    s.registers = t.registers := by
  simp [State.registers, hcmd, hst, ha, hb, hk, hn, hr, hc]

theorem endOfProgram_of_hostDone {s : State} (k : Nat) (h : s.hostDone = true) : endOfProgram k s = some s := by
  cases k <;> simp [endOfProgram, h]

theorem endOfProgram_succ {s t : State} (k : Nat) (h : s.hostDone = false) (hs : step s = .next t) :
    endOfProgram (k + 1) s = endOfProgram k t := by
  simp [endOfProgram, h, hs]

/-- All that an end of a program is: the run reaches it, the host has no transaction left there, and it had one left in
every state before. -/
theorem endOfProgram_spec {k : Nat} {s t : State} (h : endOfProgram k s = some t) :
    ∃ j, j ≤ k ∧ run j s = .next t ∧ t.hostDone = true ∧ ∀ i, i < j → ∃ u, run i s = .next u ∧ u.hostDone = false := by
  induction k generalizing s with
  | zero =>
    cases hd : s.hostDone <;> simp [endOfProgram, hd] at h
    subst h
    exact ⟨0, Nat.le_refl 0, rfl, hd, fun i hi => absurd hi (Nat.not_lt_zero i)⟩
  | succ k ih =>
    cases hd : s.hostDone
    · cases hs : step s with
      | next u =>
        rw [endOfProgram_succ k hd hs] at h
        obtain ⟨j, hj, hr, hdt, hb⟩ := ih h
        refine ⟨j + 1, Nat.succ_le_succ hj, by rw [run_succ j hs, hr], hdt, fun i hi => ?_⟩
        cases i with
        | zero => exact ⟨s, rfl, hd⟩
        | succ i =>
          obtain ⟨v, hv, hvd⟩ := hb i (Nat.lt_of_succ_lt_succ hi)
          exact ⟨v, by rw [run_succ i hs, hv], hvd⟩
      | fault f => exact nomatch f
      | refused r => simp [endOfProgram, hd, hs] at h
    · rw [endOfProgram_of_hostDone _ hd] at h
      cases h
      exact ⟨0, Nat.zero_le _, rfl, hd, fun i hi => absurd hi (Nat.not_lt_zero i)⟩

/-- The first state of a run without a transaction left is the end of the program. -/
theorem endOfProgram_of_run {j : Nat} {s t : State} (hr : run j s = .next t) (hd : t.hostDone = true)
    (hb : ∀ i, i < j → ∃ u, run i s = .next u ∧ u.hostDone = false) : endOfProgram j s = some t := by
  induction j generalizing s with
  | zero =>
    simp at hr
    subst hr
    exact endOfProgram_of_hostDone 0 hd
  | succ j ih =>
    obtain ⟨u, hu, hud⟩ := hb 0 (Nat.succ_pos j)
    simp at hu
    subst hu
    cases hs : step s with
    | next v =>
      rw [run_succ j hs] at hr
      rw [endOfProgram_succ j hud hs]
      refine ih hr fun i hi => ?_
      obtain ⟨w, hw, hwd⟩ := hb (i + 1) (Nat.succ_lt_succ hi)
      exact ⟨w, by rwa [run_succ i hs] at hw, hwd⟩
    | fault f => exact nomatch f
    | refused r => simp [run, Host.Core.run, Sys2Proof.core, hs] at hr

/-- More fuel reaches the same end. -/
theorem endOfProgram_mono {k m : Nat} {s t : State} (h : endOfProgram k s = some t) (hk : k ≤ m) :
    endOfProgram m s = some t := by
  induction k generalizing s m with
  | zero =>
    cases hd : s.hostDone <;> simp [endOfProgram, hd] at h
    subst h
    exact endOfProgram_of_hostDone m hd
  | succ k ih =>
    cases hd : s.hostDone
    · obtain ⟨m, rfl⟩ : ∃ n, m = n + 1 := ⟨m - 1, by omega⟩
      cases hs : step s with
      | next u =>
        rw [endOfProgram_succ k hd hs] at h
        rw [endOfProgram_succ m hd hs, ih h (Nat.le_of_succ_le_succ hk)]
      | fault f => exact nomatch f
      | refused r => simp [endOfProgram, hd, hs] at h
    · rw [endOfProgram_of_hostDone _ hd] at h ⊢
      exact h

/-- A program has one end, whatever the fuel. -/
theorem endOfProgram_unique {k m : Nat} {s t u : State} (ht : endOfProgram k s = some t)
    (hu : endOfProgram m s = some u) : t = u := by
  have h := endOfProgram_mono ht (Nat.le_max_left k m)
  rw [endOfProgram_mono hu (Nat.le_max_right k m)] at h
  exact (Option.some.inj h).symm

end Sys2Proof.Machine
end

