-- ==== Sys2Proof/Tests/Slice0.lean ====
section
/-! SUPPORT. Tests/Slice0.lean: the model's own tests. Expected values are the spec's: the words of 30_encoding.md, the
examples of the command rules and the vectors of 95_test_vectors.md. Then, for each statement with hypotheses, a witness
that meets them. -/

namespace Sys2Proof.Machine.Tests

/-! ## Helpers -/

/-- The state a step answers, if it answers one. -/
def stateOf : Host.Outcome State Fault Refusal → Option State
  | .next t => some t
  | .fault _ => none
  | .refused _ => none

/-- Reset with the four operand registers written. -/
def withOperands (a b : BitVec 8) (k n : Word) : State := { State.reset with opa := a, opb := b, opk := k, opn := n }

/-- RES and STATUS after one step that completes command word `w` with these operands. -/
def resultOf (w : Nat) (a b : BitVec 8) (k n : Word) : Option (BitVec 8 × Word) :=
  (stateOf (step ((withOperands a b k n).withFetchWord 16 w))).map fun t => (t.res, t.status.word)

/-- CNT and STATUS after one step that completes ORDER. -/
def orderResultOf (a : BitVec 8) (m n : Word) : Option (Word × Word) :=
  (stateOf (step ((withOperands a 0#8 m n).withFetchWord 16 7))).map fun t => (t.cnt, t.status.word)

/-- FMUL of 3 and 7 in flight with one transaction before its COMPLETE, and a read of RES pending. -/
def flying : State :=
  { (withOperands 3#8 7#8 0#16 0#16).issueRegs 0x0001#16 with due := 1, pending := [rdAction .res] }

/-! ## WellFormed: the check on `illegal` refuses the fields of a legal word (R77, R78) -/

theorem test_wf_refuses_fmul_fields : (Instr.illegal 0x000#12 0x1#4).wellFormed = false := by decide
theorem test_wf_refuses_order_fields : (Instr.illegal 0x000#12 0x7#4).wellFormed = false := by decide
theorem test_wf_accepts_illegal_fields :
    (Instr.illegal 0x000#12 0x0#4).WellFormed ∧ (Instr.illegal 0x000#12 0x8#4).WellFormed ∧
      (Instr.illegal 0x001#12 0x1#4).WellFormed := by decide

/-! ## Decoding of words written out from R71, R77 and R81 -/

theorem test_decode_fmul : decodeTableWord 16 0b0000_0000_0000_0001 = some .fmul := by decide
theorem test_decode_finv : decodeTableWord 16 0b0000_0000_0000_0010 = some .finv := by decide
theorem test_decode_padd : decodeTableWord 16 0b0000_0000_0000_0011 = some .padd := by decide
theorem test_decode_pdbl : decodeTableWord 16 0b0000_0000_0000_0100 = some .pdbl := by decide
theorem test_decode_smulh : decodeTableWord 16 0b0000_0000_0000_0101 = some .smulh := by decide
theorem test_decode_smull : decodeTableWord 16 0b0000_0000_0000_0110 = some .smull := by decide
theorem test_decode_order : decodeTableWord 16 0b0000_0000_0000_0111 = some .order := by decide
/-- RSV = 0x002, OP = 0x6. -/
theorem test_decode_illegal :
    decodeTableWord 16 0b0000_0000_0010_0110 = some (.illegal 0x002#12 0x6#4) := by decide
/-- W = 1, IDX = 5 (OPN), DATA = 0x8001. -/
theorem test_decode_wr : decodeTableWord 24 0b1_101_1000_0000_0000_0001 = some (.wr .opn 0x8001#16) := by decide
/-- W = 0, IDX = 7 (CNT); DATA is ignored. -/
theorem test_decode_rd : decodeTableWord 24 0b0_111_1000_0000_0000_0001 = some (.rd .cnt) := by decide
theorem test_decode_rejects_by_name :
    decodeBits 32 0x10000 = .error (.noSuchLength 32) ∧ decodeBits 24 0x100000 = .error (.tooWide 24 0x100000) ∧
      decodeBits 16 0x10000 = .error (.tooWide 16 0x10000) := ⟨rfl, rfl, rfl⟩
/-- The examples of R81. -/
theorem test_encode_examples :
    encode (.wr .opa 0x0050#16) = .htx 0xA0050#20 ∧ encode (.wr .cmd 0x0005#16) = .htx 0x80005#20 ∧
      encode (.rd .status) = .htx 0x10000#20 ∧ encode (.rd .res) = .htx 0x60000#20 := by decide

/-! ## Commands -/

/-- R110: the upper nibbles do not matter. -/
theorem test_fmul_nibbles : resultOf 1 0x3F#8 0x2F#8 0#16 0#16 = some (0x0A#8, 0x0002#16) := by decide
/-- V-MUL, further vectors. -/
theorem test_fmul_vector : resultOf 1 0xFB#8 0x39#8 0#16 0#16 = some (0x0C#8, 0x0002#16) := by decide
/-- V-FINV. -/
theorem test_finv_vector : resultOf 2 0x32#8 0#8 0#16 0#16 = some (0x09#8, 0x0002#16) := by decide
theorem test_finv_zero : resultOf 2 0xF0#8 0#8 0#16 0#16 = some (0x00#8, 0x0006#16) := by decide
/-- V-PADD, both operands off the curve. -/
theorem test_padd_generic : resultOf 3 0x12#8 0x34#8 0#16 0#16 = some (0xCA#8, 0x0002#16) := by decide
theorem test_padd_same_x : resultOf 3 0x12#8 0x15#8 0#16 0#16 = some (0x00#8, 0x0002#16) := by decide
/-- R135. -/
theorem test_pdbl_generator : resultOf 4 0x50#8 0#8 0#16 0#16 = some (0xFB#8, 0x0002#16) := by decide
theorem test_pdbl_x_zero : resultOf 4 0x0B#8 0#8 0#16 0#16 = some (0x00#8, 0x0002#16) := by decide
/-- V-SMUL: the zero scalar gives INF, not P. -/
theorem test_smulh_zero : resultOf 5 0x50#8 0#8 0#16 0#16 = some (0x00#8, 0x0002#16) := by decide
theorem test_smulh_ffff : resultOf 5 0x50#8 0#8 0xFFFF#16 0#16 = some (0x11#8, 0x0002#16) := by decide +kernel
/-- V-SMUL: only the top bit set. -/
theorem test_smull_top_bit : resultOf 6 0x50#8 0#8 0x8000#16 0#16 = some (0x96#8, 0x0002#16) := by decide +kernel
theorem test_smull_off_curve : resultOf 6 0x12#8 0#8 5#16 0#16 = some (0x7D#8, 0x0002#16) := by decide +kernel
/-- V-ORDER rows 4 and 3. -/
theorem test_order_generator : orderResultOf 0x50#8 22#16 22#16 = some (22#16, 0x0022#16) := by decide
theorem test_order_bound_too_small : orderResultOf 0x81#8 10#16 22#16 = some (0#16, 0x000A#16) := by decide
/-- V-PORT rows 7 and 9. -/
theorem test_illegal_zero : resultOf 0x0000 0x03#8 0x07#8 0#16 0#16 = some (0x00#8, 0x000E#16) := by decide
theorem test_illegal_rsv : resultOf 0x0011 0x03#8 0x07#8 0#16 0#16 = some (0x00#8, 0x000E#16) := by decide

/-! ## Transactions -/

/-- V-PORT row 2: the high byte is dropped. -/
theorem test_wr_opa : (stateOf (exec (.wr .opa 0x1250#16) State.reset)).map (·.opa) = some 0x50#8 := by decide
/-- R97: a CMD write while busy is lost. -/
theorem test_wr_cmd_busy : (stateOf (exec (.wr .cmd 0x0004#16) flying)).map (·.cmd) = some 0x0001#16 := by decide
/-- V-PORT row 5: STATUS before COMPLETE. -/
theorem test_rd_status_busy : (stateOf (exec (.rd .status) flying)).map (·.reads) = some [0x0001#16] := by decide
/-- V-PORT row 18: ISGEN is kept and is bit 5. -/
theorem test_rd_status_isgen :
    (stateOf (exec (.rd .status) { State.reset with status := ⟨false, true, 0#3, true⟩ })).map (·.reads)
      = some [0x0022#16] := by decide

/-! ## The step -/

/-- R214: a read of RES while FMUL is in flight returns the old value, and the hazard is seen. -/
theorem test_step_stale_read :
    (stateOf (step flying)).map (fun t => (t.reads, t.due)) = some ([0x0000#16], 0) ∧ readsStale flying = true := by
  decide
/-- V-PORT row 6: then COMPLETE comes. -/
theorem test_step_complete :
    (stateOf (step { flying with due := 0 })).map (fun t => (t.res, t.status.word, t.pending))
      = some (0x09#8, 0x0002#16, [rdAction .res]) := by decide
/-- R220: with no transaction pending COMPLETE is the only enabled step. -/
theorem test_step_complete_when_alone :
    (stateOf (step { flying with pending := [] })).map (·.res) = some 0x09#8 := by decide
/-- V-PORT row 15: RESET discards the command in flight. -/
theorem test_step_reset :
    (stateOf (step { flying with pending := [.reset] })).map (fun t => (t.status.word, t.res, t.opa))
      = some (0x0000#16, 0x00#8, 0x00#8) := by decide
/-- R83: WAIT stays pending while BUSY is 1. -/
theorem test_step_wait_polls :
    (stateOf (step { flying with pending := [.waitBusy] })).map (fun t => (t.pending, t.reads))
      = some ([.waitBusy], [0x0001#16]) := by decide
/-- R217: with DONE = 1 the poll on DONE ends, but not after a dropped CMD write; the read itself is true either way. -/
theorem test_step_done_poll :
    (let done : State := { State.reset with status := ⟨false, true, 0#3, false⟩, pending := [.waitDone] }
     (stateOf (step done)).map (fun t => (t.pending, t.reads)) = some ([], [0x0002#16]) ∧
       (stateOf (step { done with cmdLost := true })).map (fun t => (t.pending, t.reads))
         = some ([.waitDone], [0x0002#16])) := by decide
/-- R97 and R217: a CMD write while busy is noted as dropped, and leaves CMD. -/
theorem test_step_notes_drop :
    (stateOf (step { flying with pending := [wrAction .cmd 4#16] })).map (fun t => (t.cmdLost, t.cmd))
      = some (true, 0x0001#16) := by decide
/-- R97 and R215: the hazard of a dropped CMD write is seen. -/
theorem test_drops_cmd_write :
    dropsCmdWrite { flying with pending := [wrAction .cmd 4#16] } = true ∧
      dropsCmdWrite { State.reset with pending := [wrAction .cmd 4#16] } = false := by decide
/-- The host probes: every row's instruction runs as the first one after reset. -/
theorem test_withFetchWord_runs_first :
    (stateOf (step (State.reset.withFetchWord 16 7))).map (·.status.word) = some 0x000A#16 ∧
      (stateOf (step (State.reset.withFetchWord 24 0xA1250))).map (·.opa) = some 0x50#8 ∧
      (stateOf (step (State.reset.withFetchWord 24 0x10000))).map (·.reads) = some [0x0000#16] := by decide
/-- R103: the program `WR CMD, 1` ends right after its one transaction, with BUSY = 1 and RES as before, however many
steps are looked at; with a WAIT after it the end state has the result. FMUL of 3 and 7 is V-PORT row 6. -/
theorem test_end_state :
    (let s : State := { withOperands 3#8 7#8 0#16 0#16 with latencies := [0], pending := [wrAction .cmd 1#16] }
     endState 0 s = none ∧ endState 5 s = some [1#16, 1#16, 3#16, 7#16, 0#16, 0#16, 0#16, 0#16] ∧
       endState 5 { s with pending := [wrAction .cmd 1#16, .waitBusy] }
         = some [1#16, 2#16, 3#16, 7#16, 0#16, 0#16, 9#16, 0#16]) := by decide
/-- V-PTS: a point and its order. -/
theorem test_order_of_points :
    orderOf 0x0B#8 0xFFFF#16 = some 2 ∧ orderOf 0x81#8 11#16 = some 11 ∧ onCurve 0x50#8 = true ∧
      onCurve 0x51#8 = false := by decide

/-! ## Witnesses: for each statement with hypotheses, values that meet them -/

theorem flying_inv : Inv flying := by constructor <;> decide

theorem order_of_inf : IsOrder 0x00#8 1 := (isOrder_iff _ _).2 (by decide)

theorem order_of_0B : IsOrder 0x0B#8 2 := (isOrder_iff _ _).2 (by decide)

theorem order_of_81 : IsOrder 0x81#8 11 := (isOrder_iff _ _).2 (by decide +kernel)

/-- ResetEventDiscardsTheCommand: in flight with a transaction to come, and idle. -/
theorem witness_resetEvent :
    ({ flying with pending := [.reset, .waitBusy] } : State).pending = .reset :: [.waitBusy] ∧
      (flying.status.busy = true → flying.due ≠ 0) ∧ (State.reset.status.busy = true → State.reset.due ≠ 0) := by
  decide

/-- StepKeepsTheStateInvariant and ResultsAreStaleUntilComplete. -/
theorem witness_stepInv :
    Inv flying ∧ (∃ t, step flying = .next t) ∧ flying.status.busy = true ∧ flying.completes = false ∧
      ∀ rest, flying.pending ≠ .reset :: rest :=
  ⟨flying_inv, ⟨_, rfl⟩, by decide, by decide, fun _ h => nomatch (List.cons.inj h).1⟩

/-- IssueLatchesTheOperands, and BusyCmdWriteChangesNothing. -/
theorem witness_idle_and_busy : State.reset.status.busy = false ∧ flying.status.busy = true := by decide

/-- ReadAfterWriteOnThePort: a truncated store, a full store, a read-only register and another register, with the
largest data word; and CMD while idle. -/
theorem witness_readAfterWrite :
    (Reg.opa ≠ .cmd ∧ (stateOf (exec (.wr .opa 0xFFFF#16) flying)).map (·.portRead .opa) = some 0x00FF#16) ∧
      (Reg.opn ≠ .cmd ∧ (stateOf (exec (.wr .opn 0xFFFF#16) flying)).map (·.portRead .opn) = some 0xFFFF#16) ∧
      (Reg.cnt ≠ .cmd ∧ (stateOf (exec (.wr .cnt 0xFFFF#16) flying)).map (·.portRead .cnt) = some 0x0000#16) ∧
      (stateOf (exec (.wr .opa 0xFFFF#16) flying)).map (·.portRead .opb) = some 0x0007#16 ∧
      (State.reset.status.busy = false ∧ Reg.opa ≠ .cmd ∧ Reg.opa ≠ .status ∧
        (stateOf (exec (.wr .cmd 0xFFFF#16) State.reset)).map (·.portRead .cmd) = some 0xFFFF#16) := by decide

/-- TransactionsLeaveTheRestAlone: a dropped CMD write, a store and a read. -/
theorem witness_transactions :
    (isCommand (.wr .cmd 4#16) = false ∧ exec (.wr .cmd 4#16) flying = .next flying ∧
      ∀ v, Instr.wr .cmd 4#16 = .wr .cmd v → flying.status.busy = true) ∧
    (isCommand (.wr .opa 4#16) = false ∧ ∃ t, exec (.wr .opa 4#16) flying = .next t) ∧
    (isCommand (.rd .res) = false ∧ ∃ t, exec (.rd .res) flying = .next t) :=
  ⟨⟨rfl, rfl, fun _ _ => rfl⟩, ⟨rfl, _, rfl⟩, ⟨rfl, _, rfl⟩⟩

/-- DecodeAndEncodeAgree: the smallest and the largest illegal words. -/
theorem witness_wellFormed :
    (Instr.illegal 0x000#12 0x0#4).WellFormed ∧ (Instr.illegal 0xFFF#12 0xF#4).WellFormed ∧
      (Instr.wr .cnt 0xFFFF#16).WellFormed := by decide

/-- SevenLegalCommandWords and IllegalWordReportsAndComputesNothing: the words beside the legal ones. -/
theorem witness_illegalWords :
    ¬ (1 ≤ (0x0000#16).toNat ∧ (0x0000#16).toNat ≤ 7) ∧ ¬ (1 ≤ (0x0008#16).toNat ∧ (0x0008#16).toNat ≤ 7) ∧
      ¬ (1 ≤ (0xFFFF#16).toNat ∧ (0xFFFF#16).toNat ≤ 7) := by decide

/-- StepRunsTheDecodedInstruction: one state for each clause. -/
theorem witness_stepRuns :
    (({ flying with due := 0 } : State).status.busy = true ∧ ({ flying with due := 0 } : State).due = 0) ∧
      ({ flying with pending := [] } : State).pending = [] ∧
      (flying.status.busy = true → flying.due ≠ 0) ∧ flying.pending = [.htx 0x60000#20] ∧
      ({ flying with pending := [.waitBusy] } : State).pending = [.waitBusy] ∧
      ({ flying with pending := [.waitDone] } : State).pending = [.waitDone] ∧
      State.reset.status.busy = false ∧ State.reset.pending = [] := by decide

/-- PlacedWordIsTheNextInstruction: the largest record and the largest word. -/
theorem witness_placedWord : 0xFFFFF < 2 ^ 20 ∧ 0xFFFF < 2 ^ 16 := by decide

/-- ResultsChangeOnlyAtCompleteOrReset: a COMPLETE that changes RES, and a RESET that does. -/
theorem witness_resultsChange :
    (stateOf (step { flying with due := 0 })).map (·.res) = some 0x09#8 ∧ flying.res = 0x00#8 ∧
      (stateOf (step { flying with res := 5#8, pending := [.reset] })).map (·.res) = some 0x00#8 := by decide

/-- FinvWritesTheInverse: operands with both kinds of low nibble. -/
theorem witness_finv : (0xF0#8).toNat % 16 = 0 ∧ (0xF1#8).toNat % 16 ≠ 0 ∧ (0x0F#8).toNat % 16 ≠ 0 := by decide

/-- PaddWritesTheSum and PdblWritesTheDouble: equal x, different y; x = 0 at both ends. -/
theorem witness_points :
    ((0x50#8).toNat / 16 = (0x55#8).toNat / 16 ∧ 0x50#8 ≠ 0x55#8 ∧ 0x50#8 ≠ 0x00#8 ∧ 0x55#8 ≠ 0x00#8) ∧
      (0x00#8).toNat < 16 ∧ (0x0F#8).toNat < 16 := by decide

/-- OrderWritesTheOrderAndVerdict, OrderIsTheLeastMultiple, OrderCornerCases: the bound at the order and one below. -/
theorem witness_order :
    (IsOrder 0x81#8 11 ∧ (11#16).toNat = 11 ∧ (10#16).toNat = 11 - 1) ∧ (IsOrder 0x00#8 1 ∧ 1 ≤ (1#16).toNat) ∧
      (0#16).toNat = 1 - 1 :=
  ⟨⟨order_of_81, by decide, by decide⟩, ⟨order_of_inf, by decide⟩, by decide⟩

/-- OrdersAreAtMostTwentyTwo: the bound 22, a bound too small, and group elements of each kind. -/
theorem witness_orders :
    22 ≤ (22#16).toNat ∧ (IsOrder 0x81#8 11 ∧ (10#16).toNat < 11) ∧
      (inGroup 0x00#8 = true ∧ inGroup 0x0B#8 = true ∧ inGroup 0x81#8 = true) :=
  ⟨by decide, ⟨order_of_81, by decide⟩, by decide⟩

/-- ResultRegistersHaveOwners and CommandsLeaveTheOperandsAlone: a command that writes RES, and ORDER. -/
theorem witness_commands :
    (isCommand .fmul = true ∧ ∃ t, exec .fmul flying = .next t) ∧ (isCommand .order = true ∧ writesRes .order = false) ∧
      (isCommand (.illegal 0#12 0#4) = true ∧ ∃ t, exec (.illegal 0#12 0#4) flying = .next t) ∧
      flying = { flying with status := { flying.status with err := flying.status.err } } :=
  ⟨⟨rfl, _, rfl⟩, ⟨rfl, rfl⟩, ⟨rfl, _, rfl⟩, rfl⟩

/-- ErrorCodesHaveTheirCauses: an operand that raises each code. -/
theorem witness_errors :
    (stateOf (exec .finv { flying with latA := 0x10#8 })).map (·.status.err) = some 1#3 ∧
      (stateOf (exec .order { flying with latK := 0#16 })).map (·.status.err) = some 2#3 ∧
      (stateOf (exec (.illegal 0#12 0#4) flying)).map (·.status.err) = some 3#3 := by decide

/-- CompletionReadsOnlyTheLatches: two states that agree on the latches only. -/
theorem witness_sameLatches :
    let s' : State := { flying with opa := 9#8, res := 1#8, cnt := 2#16, reads := [7#16] }
    s' ≠ flying ∧ s'.latCmd = flying.latCmd ∧ s'.latA = flying.latA ∧ s'.latB = flying.latB ∧ s'.latK = flying.latK ∧
      s'.latN = flying.latN := by decide

/-- TransactionsInFlightDoNotChangeTheResult. -/
theorem witness_inFlight :
    (∀ i ∈ [Instr.wr .opa 1#16, .wr .cmd 4#16, .rd .status], isCommand i = false) ∧ flying.status.busy = true := by
  decide

/-- InverseRomHoldsTheInverses, DoublerFollowsTheTangentRule and AdderFollowsTheChordRule: the slopes of the traces of
R135 and R134. -/
theorem witness_slopes :
    (0xF#4 ≠ 0#4) ∧ (0x5#4 ≠ 0#4 ∧ gfMul 0x5#4 0x5#4 = gfMul 0x5#4 0x5#4 ^^^ 0x0#4) ∧
      (0x0#4 ≠ 0x5#4 ∧ mkpt 0x5#4 0x0#4 ≠ 0x00#8 ∧ mkpt 0x5#4 0x5#4 ≠ 0x00#8) ∧
      (mkpt 0x5#4 0x0#4 ≠ 0x00#8 ∧ mkpt 0xF#4 0xB#4 ≠ 0x00#8 ∧ 0x5#4 ≠ 0xF#4 ∧
        gfMul (0x5#4 ^^^ 0xF#4) 0xD#4 = 0x0#4 ^^^ 0xB#4) := by decide

/-- InverseOfZeroIsNeverUsed: another ROM that differs at 0. -/
theorem witness_otherRom : ∀ a : Elt, a ≠ 0#4 → (fun b => if b = 0#4 then 0xF#4 else romValue b) a = romValue a := by
  intro a h
  simp [h]

/-- EveryCurveIsAGroup: three points of the curve with constant term 9, and INF. -/
theorem witness_curve :
    curveTerm 0x50#8 = 9#4 ∧ curveTerm 0xFB#8 = 9#4 ∧ (0x00#8 = inf ∨ curveTerm 0x00#8 = 9#4) := by decide

/-- GroupOfTheCurveIsClosed. -/
theorem witness_inGroup : inGroup 0x50#8 = true ∧ inGroup 0x00#8 = true := by decide

/-- HighToLowDoublesThenAdds and LowToHighAddsTheDoubledBase: both ends of the ranges. -/
theorem witness_recurrences :
    (1 ≤ 1 ∧ 2 * 1 + 1 < 2 ^ 16) ∧ (1 ≤ 32767 ∧ 2 * 32767 + 1 < 2 ^ 16) ∧ (0 < 16 ∧ 0 < 2 ^ 0) ∧
      (15 < 16 ∧ 32767 < 2 ^ 15) := by decide

/-- ScalarsAreLinear: a sum that just fits. -/
theorem witness_scalars : (65534#16).toNat + (1#16).toNat ≤ 65535 := by decide

/-- ResultsAreKeptUntilTheNextIssue: idle, with a CMD write pending. -/
theorem witness_kept :
    ({ State.reset with pending := [wrAction .cmd 1#16] } : State).status.busy = false ∧
      ∀ rest, ({ State.reset with pending := [wrAction .cmd 1#16] } : State).pending ≠ .reset :: rest :=
  ⟨rfl, fun _ h => nomatch (List.cons.inj h).1⟩

/-- BothOutcomesOfABusyWriteOccur. -/
theorem witness_twoWrites :
    ({ State.reset with pending := [wrAction .cmd 5#16, wrAction .cmd 4#16] } : State).pending
      = wrAction .cmd 5#16 :: wrAction .cmd 4#16 :: [] ∧ State.reset.status.busy = false := by decide

/-- LatencyCountsTheTransactions: latency 0 and latency 2. -/
theorem witness_latency :
    (let s : State := { State.reset with latencies := [0], pending := [wrAction .cmd 1#16] }
     s.status.busy = false ∧ s.latencies = ([] : List Htx).length :: [] ∧
       s.pending = wrAction .cmd 1#16 :: (([] : List Htx).map .htx ++ [])) ∧
    (let recs : List Htx := [0x10000#20, 0x80004#20]
     let s : State := { State.reset with latencies := [2], pending := [wrAction .cmd 1#16, .htx 0x10000#20, .htx 0x80004#20] }
     s.status.busy = false ∧ s.latencies = recs.length :: [] ∧
       s.pending = wrAction .cmd 1#16 :: (recs.map .htx ++ [])) := by decide

/-- EveryCommandInFlightCompletes. -/
theorem witness_inFlightNoReset : flying.status.busy = true ∧ HostAction.reset ∉ flying.pending := by decide

/-- WaitEndsWithTheResults: idle and in flight. -/
theorem witness_wait :
    ({ flying with pending := [.waitBusy] } : State).pending = .waitBusy :: [] ∧ flying.status.busy = true ∧
      ({ State.reset with pending := [.waitBusy] } : State).pending = .waitBusy :: [] ∧
      State.reset.status.busy = false := by decide

/-- DonePollWithoutACommandHangs: nothing issued; and a CMD write that is dropped. -/
theorem witness_donePoll :
    (({ State.reset with pending := [.waitDone] } : State).pending = .waitDone :: [] ∧
      State.reset.status.busy = false ∧ State.reset.status.done = false) ∧
    (({ flying with pending := [wrAction .cmd 4#16, .waitDone] } : State).pending
        = wrAction .cmd 4#16 :: .waitDone :: [] ∧ flying.status.busy = true ∧ flying.due ≠ 0) := by decide

/-- DonePollAfterAnIssueEnds. -/
theorem witness_donePollAfterIssue :
    ({ State.reset with pending := [wrAction .cmd 4#16, .waitDone] } : State).pending
        = wrAction .cmd 4#16 :: .waitDone :: [] ∧ State.reset.status.busy = false := by decide

/-- MacrosComputeForEveryLatency: FINV of 0 and ORDER with a zero bound among the operands. -/
theorem witness_macro :
    ((Pseudo.finv 0#16).isMacro = true ∧
      ({ State.reset with pending := (Pseudo.finv 0#16).expand } : State).pending = (Pseudo.finv 0#16).expand ++ []) ∧
    ((Pseudo.order 0x81#16 0#16 22#16).isMacro = true ∧ State.reset.status.busy = false) := by decide

/-- EndStateDoesNotDependOnLatency and MacroProgramsAreOrderly: two idle states with the same registers and different
latencies. -/
theorem witness_macroProgram :
    let ps := [Pseudo.fmul 3#16 7#16, .pdbl 0x50#16]
    let s : State := { State.reset with pending := ps.flatMap Pseudo.expand, latencies := [0, 0] }
    let s' : State := { State.reset with pending := ps.flatMap Pseudo.expand, latencies := [3, 1], latA := 1#8 }
    (∀ p ∈ ps, p.isMacro = true) ∧ s.status.busy = false ∧ s.registers = s'.registers ∧
      s.pending = ps.flatMap Pseudo.expand ∧ s'.pending = ps.flatMap Pseudo.expand ∧ s ≠ s' := by decide

/-- EndStateDoesNotDependOnLatency, the program without a WAIT. -/
theorem witness_bareIssue :
    ({ State.reset with pending := [wrAction .cmd 1#16] } : State).pending = [wrAction .cmd 1#16] ∧
      State.reset.status.busy = false := by decide

end Sys2Proof.Machine.Tests
end

section
/-! PROOFS. The multiplier refines multiplication of polynomials over GF(2) modulo x^4 + x + 1 (R9, R111). Bit vectors
of every width are read as polynomials by `bitPoly`, whose coefficients are the bits; each loop of `gf_mul` is then
followed iteration by iteration: the first adds the terms of the product, the second adds multiples of the modulus. -/

namespace Sys2Proof.Machine

open Polynomial

/-! ## Bit vectors as polynomials over GF(2) -/

/-- A bit vector of any width as a polynomial over GF(2), as `eltPoly` reads a field element. -/
noncomputable def bitPoly {w : Nat} (v : BitVec w) : Polynomial (ZMod 2) :=
  ∑ i : Fin w, if v.getLsbD i then X ^ (i : ℕ) else 0

theorem eltPoly_eq_bitPoly (a : Elt) : eltPoly a = bitPoly a := rfl

theorem coeff_bitPoly {w : Nat} (v : BitVec w) (n : Nat) : (bitPoly v).coeff n = if v.getLsbD n then 1 else 0 := by
  have hterm (i : Fin w) : (if v.getLsbD i then (X : Polynomial (ZMod 2)) ^ (i : ℕ) else 0).coeff n =
      if n = i then (if v.getLsbD i then 1 else 0) else 0 := by
    split <;> simp [coeff_X_pow]
  rw [bitPoly, finsetSum_coeff, Finset.sum_congr rfl fun i _ => hterm i]
  by_cases hn : n < w
  · rw [Finset.sum_eq_single ⟨n, hn⟩ (fun i _ hi => if_neg fun h => hi (Fin.ext h.symm)) (by simp), if_pos rfl]
  · rw [BitVec.getLsbD_of_ge v n (Nat.le_of_not_lt hn), if_neg Bool.false_ne_true]
    exact Finset.sum_eq_zero fun i _ => if_neg (by omega)

/-- Addition in GF(2)[x] is XOR of the bits. -/
theorem bitPoly_xor {w : Nat} (u v : BitVec w) : bitPoly (u ^^^ v) = bitPoly u + bitPoly v := by
  ext n
  rw [coeff_add, coeff_bitPoly, coeff_bitPoly, coeff_bitPoly, BitVec.getLsbD_xor]
  cases u.getLsbD n <;> cases v.getLsbD n <;> decide

theorem bitPoly_zero {w : Nat} : bitPoly 0#w = 0 := by
  ext n
  simp [coeff_bitPoly]

theorem bitPoly_setWidth {w w' : Nat} (h : w ≤ w') (v : BitVec w) : bitPoly (v.setWidth w') = bitPoly v := by
  ext n
  by_cases hn : n < w'
  · simp [coeff_bitPoly, hn]
  · simp [coeff_bitPoly, hn, BitVec.getLsbD_of_ge v n (by omega)]

/-- A left shift that loses no bit multiplies by a power of x. -/
theorem bitPoly_shiftLeft {w k : Nat} {v : BitVec w} (h : ∀ i, w ≤ i + k → v.getLsbD i = false) :
    bitPoly (v <<< k) = bitPoly v * X ^ k := by
  ext n
  rw [coeff_mul_X_pow', coeff_bitPoly, coeff_bitPoly, BitVec.getLsbD_shiftLeft]
  by_cases hk : k ≤ n
  · by_cases hn : n < w
    · simp [hk, hn, Nat.not_lt.mpr hk]
    · simp [hn, h (n - k) (by omega)]
  · simp [hk, Nat.not_le.mp hk]

/-! ## The first loop of `gf_mul` -/

/-- One iteration of the first loop (R111). -/
def addShifted (a b : Elt) (p : BitVec 8) (i : Nat) : BitVec 8 :=
  if b.getLsbD i then p ^^^ (a.setWidth 8 <<< i) else p

theorem clMul_eq_foldl (a b : Elt) : clMul a b = [0, 1, 2, 3].foldl (addShifted a b) 0#8 := rfl

theorem bitPoly_addShifted (a b : Elt) (p : BitVec 8) {i : Nat} (hi : i < 4) :
    bitPoly (addShifted a b p i) = bitPoly p + bitPoly a * (if b.getLsbD i then X ^ i else 0) := by
  have hshift : bitPoly (a.setWidth 8 <<< i) = bitPoly a * X ^ i := by
    rw [bitPoly_shiftLeft fun j hj => ?_, bitPoly_setWidth (by decide)]
    rw [BitVec.getLsbD_setWidth, BitVec.getLsbD_of_ge a j (by omega), Bool.and_false]
  unfold addShifted
  split
  · rw [bitPoly_xor, hshift]
  · rw [mul_zero, add_zero]

theorem bitPoly_clMul (a b : Elt) : bitPoly (clMul a b) = bitPoly a * bitPoly b := by
  have hb : bitPoly b = ∑ i : Fin 4, if b.getLsbD i then X ^ (i : ℕ) else 0 := rfl
  rw [clMul_eq_foldl, hb, Fin.sum_univ_four]
  simp only [List.foldl_cons, List.foldl_nil, bitPoly_addShifted, bitPoly_zero, Nat.reduceLT, Nat.ofNat_pos,
    Fin.coe_ofNat_eq_mod, Nat.reduceMod]
  ring

/-! ## The second loop of `gf_mul` -/

/-- The modulus x^4 + x + 1. -/
noncomputable def modulusPoly : Polynomial (ZMod 2) := X ^ 4 + X + 1

/-- One iteration of the second loop (R111). -/
def cancelBit (p : BitVec 8) (j : Nat) : BitVec 8 :=
  if p.getLsbD j then p ^^^ (Config.modulus <<< (j - 4)) else p

theorem gfReduce_eq_foldl (p : BitVec 8) : gfReduce p = [7, 6, 5, 4].foldl cancelBit p := rfl

theorem bitPoly_modulus : bitPoly Config.modulus = modulusPoly := by
  have hbits : bitPoly Config.modulus = 1 + X + X ^ 4 := by simp [bitPoly, Fin.sum_univ_eight, Config.modulus]
  rw [hbits, modulusPoly]
  ring

theorem modulus_getLsbD_of_ge {i : Nat} (hi : 5 ≤ i) : Config.modulus.getLsbD i = false :=
  Nat.testBit_lt_two_pow (lt_of_lt_of_le (show 0x13 < 2 ^ 5 by decide) (Nat.pow_le_pow_right (by decide) hi))

theorem modulusPoly_dvd_cancelBit_sub (p : BitVec 8) {j : Nat} (hj : j < 8) :
    modulusPoly ∣ bitPoly (cancelBit p j) - bitPoly p := by
  have hhigh (i : Nat) (hi : 8 ≤ i + (j - 4)) : Config.modulus.getLsbD i = false := modulus_getLsbD_of_ge (by omega)
  unfold cancelBit
  split
  · rw [bitPoly_xor, add_sub_cancel_left, bitPoly_shiftLeft hhigh, bitPoly_modulus]
    exact dvd_mul_right _ _
  · rw [sub_self]
    exact dvd_zero _

theorem modulusPoly_dvd_foldl_cancelBit_sub (js : List Nat) (hjs : ∀ j ∈ js, j < 8) (p : BitVec 8) :
    modulusPoly ∣ bitPoly (js.foldl cancelBit p) - bitPoly p := by
  induction js generalizing p with
  | nil => simp
  | cons j js ih =>
    have hhead := modulusPoly_dvd_cancelBit_sub p (hjs j List.mem_cons_self)
    have htail := ih (fun i hi => hjs i (List.mem_cons_of_mem j hi)) (cancelBit p j)
    simpa using dvd_add htail hhead

theorem modulusPoly_dvd_gfReduce_sub (p : BitVec 8) : modulusPoly ∣ bitPoly (gfReduce p) - bitPoly p :=
  modulusPoly_dvd_foldl_cancelBit_sub [7, 6, 5, 4] (by decide) p

/-- The reduced product fits in four bits (R111). -/
theorem setWidth_extractLsb'_gfReduce : ∀ p : BitVec 8, ((gfReduce p).extractLsb' 0 4).setWidth 8 = gfReduce p := by
  decide

/-! ## The multiplier -/

theorem bitPoly_gfMul (a b : Elt) : bitPoly (gfMul a b) = bitPoly (gfReduce (clMul a b)) := by
  rw [gfMul, ← bitPoly_setWidth (show 4 ≤ 8 by decide), setWidth_extractLsb'_gfReduce]

/-- Settles O32: the first loop computes the product and the second changes it by multiples of the modulus only. -/
theorem multiplierIsPolynomialProduct : Obligations.MultiplierIsPolynomialProduct := by
  unfold Obligations.MultiplierIsPolynomialProduct
  intro a b
  rw [eltPoly_eq_bitPoly, eltPoly_eq_bitPoly, eltPoly_eq_bitPoly, bitPoly_gfMul, ← bitPoly_clMul]
  exact modulusPoly_dvd_gfReduce_sub (clMul a b)

end Sys2Proof.Machine
end

section
/-! PROOFS. The core's state along every step (10_state.md): what ORDER can find, what a command's COMPLETE and a whole
step can do, each said once, and from these the invariant `Inv`, the frame of the commands and the steps that may change
a result register. -/

namespace Sys2Proof.Machine

/-! ## Orders are at most 22 (R170, R174) -/

/-- The loop of `order_of`, entered at the multiple `c`, answers the least multiple from `c` on that is INF (R170). -/
theorem orderLoop_eq_some {g : Point} {n c k : Nat} (h : orderLoop g n (multiple g c) c = some k) :
    c ≤ k ∧ k < c + n ∧ multiple g k = inf ∧ ∀ j, c ≤ j → j < k → multiple g j ≠ inf := by
  induction n generalizing c with
  | zero => simp at h
  | succ n ih =>
    by_cases hc : multiple g c = inf
    · rw [hc, orderLoop_of_inf] at h
      cases h
      exact ⟨Nat.le_refl k, by omega, hc, fun j hkj hjk => absurd hjk (by omega)⟩
    · rw [orderLoop_of_ne_inf n c hc, ← multiple_succ] at h
      obtain ⟨hck, hkn, hk, hleast⟩ := ih h
      refine ⟨by omega, by omega, hk, fun j hcj hjk => ?_⟩
      obtain heq | hlt := Nat.eq_or_lt_of_le hcj
      · exact heq ▸ hc
      · exact hleast j hlt hjk

@[simp] theorem multiple_one (g : Point) : multiple g 1 = g := ptAddWith_inf_left romValue g

/-- An order `order_of` finds is the point's order and within the bound (R170). -/
theorem isOrder_of_orderOf {g : Point} {m : Word} {n : Nat} (h : orderOf g m = some n) :
    IsOrder g n ∧ n ≤ m.toNat := by
  rw [orderOf] at h
  nth_rw 2 [← multiple_one g] at h
  obtain ⟨hpos, hle, hinf, hleast⟩ := orderLoop_eq_some h
  exact ⟨⟨hpos, hinf, hleast⟩, by omega⟩

theorem IsOrder.unique {g : Point} {m n : Nat} (hm : IsOrder g m) (hn : IsOrder g n) : m = n := by
  obtain ⟨hm1, hminf, hmleast⟩ := hm
  obtain ⟨hn1, hninf, hnleast⟩ := hn
  obtain hlt | heq | hgt := Nat.lt_trichotomy m n
  · exact absurd hminf (hnleast m hm1 hlt)
  · exact heq
  · exact absurd hninf (hmleast n hn1 hgt)

/-- Whether the loop of `order_of` reaches INF, on numbers. -/
def reachesInfNat (g : Nat) : Nat → Nat → Bool
  | 0, _ => false
  | n + 1, acc => acc == 0 || reachesInfNat g n (ptAddNat acc g)

theorem orderLoop_isSome (g : Point) (n : Nat) (acc : Point) (c : Nat) :
    (orderLoop g n acc c).isSome = reachesInfNat g.toNat n acc.toNat := by
  induction n generalizing acc c with
  | zero => rfl
  | succ n ih =>
    by_cases h : acc = inf
    · rw [h, orderLoop_of_inf]
      rfl
    · rw [orderLoop_of_ne_inf n c h, ih, ptAdd_toNat, reachesInfNat, beq_eq_false_iff_ne.2 (point_toNat_ne_zero h),
        Bool.false_or]

/-- The bound 22 suffices for each of the 256 points, on the curve or not (R174). -/
theorem orderOf_bound22_isSome (g : Point) : (orderOf g 22#16).isSome = true := by
  have hall : checkBelow 256 (fun p => reachesInfNat p 22 p) = true := by decide +kernel
  exact (orderLoop_isSome g 22 g 1).trans (checkBelow_spec hall g.toNat g.isLt)

theorem IsOrder.le_22 {g : Point} {n : Nat} (h : IsOrder g n) : n ≤ 22 := by
  obtain ⟨m, hm⟩ := Option.isSome_iff_exists.1 (orderOf_bound22_isSome g)
  obtain ⟨hord, hle⟩ := isOrder_of_orderOf hm
  rw [h.unique hord]
  exact hle

/-! ## What a command's COMPLETE can do (R96, R102, R191) -/

/-- The state `t` that COMPLETE of command `i` leaves from `s`: a result in RES, an order in CNT and ISGEN, or one of the
three errors with what it records. -/
inductive Completion (s : State) : Instr → State → Prop where
  | result {i : Instr} (v : BitVec 8) (hi : writesRes i = true) (hv : i = .fmul ∨ i = .finv → v.toNat < 16) :
      Completion s i ((s.setRes v).finish errNone)
  | noInverse (h : gfInv s.eltA = none) : Completion s .finv ((s.setRes 0x00#8).finish errNoInverse)
  | orderFound (n : Nat) (h : orderOf s.pointA s.bound = some n) :
      Completion s .order
        ((s.setOrder (BitVec.ofNat 16 n) (BitVec.ofNat 16 n == s.cardinality)).finish errNone)
  | orderNotFound (h : orderOf s.pointA s.bound = none) :
      Completion s .order ((s.setOrder 0x0000#16 false).finish errOrderNotFound)
  | illegal (rsv : BitVec 12) (op : BitVec 4) : Completion s (.illegal rsv op) (s.finish errIllegalCmd)

/-- A field result has RES[7:4] = 0 (R73). -/
theorem eltResult_toNat_lt (r : Elt) : (eltResult r).toNat < 16 := by
  rw [eltResult, BitVec.toNat_setWidth_of_le (by decide)]
  exact r.isLt

/-- Every command completes, in every state. -/
theorem exec_completion {i : Instr} (hi : isCommand i = true) (s : State) :
    ∃ t, exec i s = .next t ∧ Completion s i t := by
  cases i with
  | fmul => exact ⟨_, rfl, .result _ rfl fun _ => eltResult_toNat_lt _⟩
  | finv =>
    cases h : gfInv s.eltA with
    | none => exact ⟨_, exec_finv_of_zero h, .noInverse h⟩
    | some r => exact ⟨_, exec_finv_of_some h, .result _ rfl fun _ => eltResult_toNat_lt r⟩
  | padd => exact ⟨_, rfl, .result _ rfl (by simp)⟩
  | pdbl => exact ⟨_, rfl, .result _ rfl (by simp)⟩
  | smulh => exact ⟨_, rfl, .result _ rfl (by simp)⟩
  | smull => exact ⟨_, rfl, .result _ rfl (by simp)⟩
  | order =>
    cases h : orderOf s.pointA s.bound with
    | none => exact ⟨_, exec_order_of_none h, .orderNotFound h⟩
    | some n => exact ⟨_, exec_order_of_some h, .orderFound n h⟩
  | illegal rsv op => exact ⟨_, rfl, .illegal rsv op⟩
  | wr r v => exact absurd hi Bool.false_ne_true
  | rd r => exact absurd hi Bool.false_ne_true

theorem completion_of_exec {i : Instr} {s t : State} (hi : isCommand i = true) (h : exec i s = .next t) :
    Completion s i t := by
  obtain ⟨u, hu, hc⟩ := exec_completion hi s
  cases hu.symm.trans h
  exact hc

namespace Completion

variable {i : Instr} {s t : State}

/-- COMPLETE writes RES, CNT and STATUS only (R28, R95). -/
theorem frame (h : Completion s i t) : t = { s with res := t.res, cnt := t.cnt, status := t.status } := by
  cases h <;> rfl

theorem busy (h : Completion s i t) : t.status.busy = false := by cases h <;> rfl

theorem done (h : Completion s i t) : t.status.done = true := by cases h <;> rfl

end Completion

/-! ## The command in flight (R77, R78) -/

theorem decodeCommand_word (c : Command) : decodeCommand c.word = c.instr := by cases c <;> rfl

theorem Command.word_legal (c : Command) : 1 ≤ c.word.toNat ∧ c.word.toNat ≤ 7 := by cases c <;> decide

theorem Command.eq_of_instr_eq {c d : Command} (h : c.instr = d.instr) : c = d := by
  revert h
  cases c <;> cases d <;> decide

theorem decodeCommand_of_not_legal {w : Word} (h : ¬ (1 ≤ w.toNat ∧ w.toNat ≤ 7)) :
    decodeCommand w = .illegal (cmdRsv w) (cmdOp w) := by
  unfold decodeCommand
  split
  case h_8 => rfl
  all_goals omega

/-- A command word is the word of one of the seven commands, or it is illegal (R77, R78). -/
theorem word_cases (w : Word) : (∃ c : Command, w = c.word) ∨ ¬ (1 ≤ w.toNat ∧ w.toNat ≤ 7) := by
  by_cases h : 1 ≤ w.toNat ∧ w.toNat ≤ 7
  · left
    obtain ⟨hlo, hhi⟩ := h
    interval_cases hw : w.toNat
    exacts [⟨.fmul, BitVec.eq_of_toNat_eq hw⟩, ⟨.finv, BitVec.eq_of_toNat_eq hw⟩, ⟨.padd, BitVec.eq_of_toNat_eq hw⟩,
      ⟨.pdbl, BitVec.eq_of_toNat_eq hw⟩, ⟨.smulh, BitVec.eq_of_toNat_eq hw⟩, ⟨.smull, BitVec.eq_of_toNat_eq hw⟩,
      ⟨.order, BitVec.eq_of_toNat_eq hw⟩]
  · exact .inr h

theorem isCommand_decodeCommand (w : Word) : isCommand (decodeCommand w) = true := by
  obtain ⟨c, rfl⟩ | h := word_cases w
  · rw [decodeCommand_word]
    cases c <;> rfl
  · rw [decodeCommand_of_not_legal h]
    rfl

/-- The words of the seven commands are the only ones that decode to them (R77). -/
theorem decodeCommand_eq_instr_iff {w : Word} {c : Command} : decodeCommand w = c.instr ↔ w = c.word := by
  obtain ⟨d, rfl⟩ | h := word_cases w
  · rw [decodeCommand_word]
    exact ⟨fun h => congrArg Command.word (Command.eq_of_instr_eq h), fun h => by
      rw [← decodeCommand_word, h, decodeCommand_word]⟩
  · constructor
    · intro hc
      rw [decodeCommand_of_not_legal h] at hc
      cases c <;> cases hc
    · rintro rfl
      exact absurd c.word_legal h

/-- Illegal instructions come from illegal words only (R78). -/
theorem not_legal_of_decodeCommand_eq_illegal {w : Word} {rsv : BitVec 12} {op : BitVec 4}
    (h : decodeCommand w = .illegal rsv op) : ¬ (1 ≤ w.toNat ∧ w.toNat ≤ 7) := by
  obtain ⟨c, rfl⟩ | hw := word_cases w
  · rw [decodeCommand_word] at h
    cases c <;> cases h
  · exact hw

/-- The words whose command writes RES are legal and not ORDER's (R102). -/
theorem word_of_writesRes {w : Word} (h : writesRes (decodeCommand w) = true) :
    (1 ≤ w.toNat ∧ w.toNat ≤ 7) ∧ w ≠ 7#16 := by
  obtain ⟨c, rfl⟩ | hw := word_cases w
  · rw [decodeCommand_word] at h
    revert h
    cases c <;> decide
  · rw [decodeCommand_of_not_legal hw] at h
    cases h

/-! ## What a step can do (R11, R58) -/

/-- A record is a write or a read (R81). -/
theorem decodeHtx_cases (x : Htx) : (∃ r v, decodeHtx x = .wr r v) ∨ ∃ r, decodeHtx x = .rd r := by
  unfold decodeHtx
  split
  · exact .inl ⟨_, _, rfl⟩
  · exact .inr ⟨_, rfl⟩

/-- Everything one step can be: COMPLETE, a write, a read (of a transaction or of a poll), RESET, or nothing. -/
theorem step_cases {s t : State} (h : step s = .next t) :
    (s.completes = true ∧ Completion s (decodeCommand s.latCmd) t) ∨
      (s.completes = false ∧ ∃ x rest r v, s.pending = .htx x :: rest ∧ decodeHtx x = .wr r v ∧
        t = ((s.hostTurn rest).noteCmdWrite (.wr r v)).portWrite r v) ∨
      (s.completes = false ∧ s.pending ≠ [] ∧ ∃ rest r, t = (s.hostTurn rest).logRead (s.portRead r)) ∨
      (s.completes = false ∧ ∃ rest, s.pending = .reset :: rest ∧ t = { s.resetCore with pending := rest }) ∨
      (s.completes = false ∧ s.pending = [] ∧ t = s) := by
  obtain ⟨hc, hturn⟩ | ⟨hc, x, rest, hp, hturn⟩ | ⟨hc, hp, rest, hturn⟩ | ⟨hc, rest, hp, hturn⟩ | ⟨hc, hp, hturn⟩ :=
    s.turn_cases
  · rw [step_of_run hturn] at h
    exact .inl ⟨hc, completion_of_exec (isCommand_decodeCommand _) h⟩
  · rw [step_of_run hturn] at h
    obtain ⟨r, v, hx⟩ | ⟨r, hx⟩ := decodeHtx_cases x
    · rw [hx, exec_wr] at h
      cases h
      exact .inr (.inl ⟨hc, x, rest, r, v, hp, hx, rfl⟩)
    · rw [hx, exec_rd] at h
      cases h
      exact .inr (.inr (.inl ⟨hc, by simp [hp], rest, r, by cases r <;> rfl⟩))
  · rw [step_of_run hturn, exec_rd] at h
    cases h
    exact .inr (.inr (.inl ⟨hc, hp, rest, .status, rfl⟩))
  · rw [step_of_stay hturn] at h
    cases h
    exact .inr (.inr (.inr (.inl ⟨hc, rest, hp, rfl⟩)))
  · rw [step_of_stay hturn] at h
    cases h
    exact .inr (.inr (.inr (.inr ⟨hc, hp, rfl⟩)))

/-! ## Results under a transaction (R56, R92, R102) -/

/-- No write of the host reaches RES, CNT or ISGEN. -/
theorem State.portWrite_keeps_results (s : State) (r : Reg) (v : Word) :
    (s.portWrite r v).res = s.res ∧ (s.portWrite r v).cnt = s.cnt ∧
      (s.portWrite r v).status.isgen = s.status.isgen := by
  obtain ⟨h, -⟩ | ⟨-, -, h⟩ | ⟨-, h⟩ | ⟨-, h⟩ | ⟨-, h⟩ | ⟨-, h⟩ := s.portWrite_cases r v <;>
    rw [h] <;> exact ⟨rfl, rfl, rfl⟩

/-! ## The invariant -/

/-- `Inv` speaks of STATUS, CMD, lat[CMD], RES, CNT and the note of a dropped write only. -/
theorem Inv.of_agree {s t : State} (hs : Inv s)
    (h : t = { t with cmd := s.cmd, latCmd := s.latCmd, status := s.status, res := s.res, cnt := s.cnt })
    (hlost : t.cmdLost = true → s.cmdLost = true ∨ s.status.busy = true) : Inv t := by
  rw [h]
  exact { hs with lost_issued := fun hl => (hlost hl).elim hs.lost_issued .inl }

theorem inv_reset : Inv State.reset := by constructor <;> decide

theorem Inv.hostTurn {s : State} (hs : Inv s) (rest : List HostAction) : Inv (s.hostTurn rest) :=
  hs.of_agree rfl .inl

theorem Inv.logRead {s : State} (hs : Inv s) (v : Word) : Inv (s.logRead v) := hs.of_agree rfl .inl

theorem Inv.noteCmdWrite {s : State} (hs : Inv s) (i : Instr) : Inv (s.noteCmdWrite i) := by
  refine hs.of_agree rfl fun hl => ?_
  rw [State.noteCmdWrite_cmdLost] at hl
  split at hl
  · exact .inr hl
  · exact .inl hl

/-- ISSUE: STATUS and CMD start afresh, the results and ISGEN stay (R94). -/
theorem Inv.issue {s : State} (hs : Inv s) (v : Word) : Inv (s.issue v) where
  err_legal := show errNone.toNat ≤ 3 by decide
  busy_excludes_done _ := rfl
  busy_issued _ := ⟨rfl, rfl⟩
  idle_untouched h := nomatch h
  done_illegal h := nomatch h
  noInverse_finv h := absurd h (show errNone ≠ errNoInverse by decide)
  notFound_order h := absurd h (show errNone ≠ errOrderNotFound by decide)
  field_result h := nomatch h
  cnt_bound := hs.cnt_bound
  order_found h := nomatch h
  isgen_found := hs.isgen_found
  lost_issued _ := .inl rfl

theorem Inv.portWrite {s : State} (hs : Inv s) (r : Reg) (v : Word) : Inv (s.portWrite r v) := by
  obtain ⟨h, -⟩ | ⟨-, -, h⟩ | ⟨-, h⟩ | ⟨-, h⟩ | ⟨-, h⟩ | ⟨-, h⟩ := s.portWrite_cases r v <;> rw [h]
  · exact hs
  · exact hs.issue v
  all_goals exact hs.of_agree rfl .inl

/-- The registers agree with the error code COMPLETE records: each code with its command and what that command leaves
there (R191), no error with a legal command, whose order, if it is ORDER, is not 0 (R173). -/
def CodeFits (s : State) (code : BitVec 3) : Prop :=
  (code = errNone ∧ (1 ≤ s.cmd.toNat ∧ s.cmd.toNat ≤ 7) ∧ (s.cmd = 7#16 → 1 ≤ s.cnt.toNat)) ∨
    (code = errNoInverse ∧ s.cmd = 2#16 ∧ s.res = 0#8) ∨
    (code = errOrderNotFound ∧ s.cmd = 7#16 ∧ s.cnt = 0#16 ∧ s.status.isgen = false) ∨
    (code = errIllegalCmd ∧ ¬ (1 ≤ s.cmd.toNat ∧ s.cmd.toNat ≤ 7))

/-- The end of COMPLETE meets the invariant when the code fits the registers and these are in range. -/
theorem inv_finish {s : State} {code : BitVec 3} (hcode : CodeFits s code)
    (hfield : s.cmd = 1#16 ∨ s.cmd = 2#16 → s.res.toNat < 16) (hcnt : s.cnt.toNat ≤ 22)
    (hisgen : s.status.isgen = true → 1 ≤ s.cnt.toNat) : Inv (s.finish code) := by
  constructor
  case field_result => exact fun _ => hfield
  case cnt_bound => exact hcnt
  case isgen_found => exact hisgen
  case busy_excludes_done | busy_issued => exact fun h => nomatch h
  case idle_untouched => exact fun _ h => nomatch h
  case lost_issued => exact fun _ => .inr rfl
  -- The clauses about ERR follow from what the code's own case says.
  all_goals
    obtain ⟨rfl, hlegal, hfound⟩ | ⟨rfl, hcmd, hres⟩ | ⟨rfl, hcmd, hcnt0, hgen⟩ | ⟨rfl, hillegal⟩ := hcode <;>
      simp_all [errNone, errNoInverse, errOrderNotFound, errIllegalCmd]

/-- COMPLETE of the command that CMD names. -/
theorem Inv.completion {s t : State} (hs : Inv s) (h : Completion s (decodeCommand s.cmd) t) : Inv t := by
  generalize hi : decodeCommand s.cmd = i at h
  cases h with
  | result v hw hv =>
    obtain ⟨hlegal, hne⟩ := word_of_writesRes (hi ▸ hw)
    have hfield : s.cmd = 1#16 ∨ s.cmd = 2#16 → v.toNat < 16 := fun hcmd => hv (hcmd.imp
      (fun h1 => hi.symm.trans (decodeCommand_eq_instr_iff (c := .fmul).2 h1))
      (fun h2 => hi.symm.trans (decodeCommand_eq_instr_iff (c := .finv).2 h2)))
    exact inv_finish (.inl ⟨rfl, hlegal, fun h7 => absurd h7 hne⟩) hfield hs.cnt_bound hs.isgen_found
  | noInverse _ =>
    have hcmd : s.cmd = 2#16 := decodeCommand_eq_instr_iff (c := .finv).1 hi
    exact inv_finish (.inr (.inl ⟨rfl, hcmd, rfl⟩)) (fun _ => show 0 < 16 by decide) hs.cnt_bound hs.isgen_found
  | orderFound n hn =>
    have hcmd : s.cmd = 7#16 := decodeCommand_eq_instr_iff (c := .order).1 hi
    obtain ⟨hord, -⟩ := isOrder_of_orderOf hn
    have hle : n ≤ 22 := hord.le_22
    have hpos : 1 ≤ n := hord.1
    have hcnt : (BitVec.ofNat 16 n).toNat = n := by
      rw [BitVec.toNat_ofNat, Nat.mod_eq_of_lt (by omega)]
    have hcnt_pos : 1 ≤ (BitVec.ofNat 16 n).toNat := hpos.trans_eq hcnt.symm
    exact inv_finish (.inl ⟨rfl, by simp [hcmd], fun _ => hcnt_pos⟩) (by simp [hcmd]) (hcnt.trans_le hle)
      (fun _ => hcnt_pos)
  | orderNotFound _ =>
    have hcmd : s.cmd = 7#16 := decodeCommand_eq_instr_iff (c := .order).1 hi
    exact inv_finish (.inr (.inr (.inl ⟨rfl, hcmd, rfl, rfl⟩))) (by simp [hcmd]) (by simp) (by simp)
  | illegal rsv op =>
    have hillegal := not_legal_of_decodeCommand_eq_illegal hi
    refine inv_finish (.inr (.inr (.inr ⟨rfl, hillegal⟩))) (fun hcmd => ?_) hs.cnt_bound hs.isgen_found
    obtain h1 | h2 := hcmd
    · simp [h1] at hillegal
    · simp [h2] at hillegal

theorem Inv.step {s t : State} (hs : Inv s) (h : step s = .next t) : Inv t := by
  obtain ⟨hc, hcompl⟩ | ⟨-, -, rest, r, v, -, -, rfl⟩ | ⟨-, -, rest, r, rfl⟩ | ⟨-, rest, -, rfl⟩ | ⟨-, -, rfl⟩ :=
    step_cases h
  · obtain ⟨hbusy, -⟩ := s.completes_iff.1 hc
    obtain ⟨-, hlat⟩ := hs.busy_issued hbusy
    exact hs.completion (hlat ▸ hcompl)
  · exact ((hs.hostTurn rest).noteCmdWrite _).portWrite r v
  · exact (hs.hostTurn rest).logRead _
  · exact inv_reset.of_agree rfl .inl
  · exact hs

/-! ## The obligations -/

/-- Settles O4: each kind of step keeps the invariant, COMPLETE because of what its command records. -/
theorem stepKeepsTheStateInvariant : Obligations.StepKeepsTheStateInvariant := by
  unfold Obligations.StepKeepsTheStateInvariant
  exact fun s t hs h => hs.step h

/-- Settles O18: transactions, polls and idling keep the results, so the step is COMPLETE or RESET. -/
theorem resultsChangeOnlyAtCompleteOrReset : Obligations.ResultsChangeOnlyAtCompleteOrReset := by
  unfold Obligations.ResultsChangeOnlyAtCompleteOrReset
  intro s t h hchange
  obtain ⟨hc, hcompl⟩ | ⟨-, -, rest, r, v, -, -, rfl⟩ | ⟨-, -, rest, r, rfl⟩ | ⟨-, rest, hp, rfl⟩ | ⟨-, -, rfl⟩ :=
    step_cases h
  · obtain ⟨hbusy, -⟩ := s.completes_iff.1 hc
    have hpending : t.pending = s.pending := by rw [hcompl.frame]
    exact ⟨hcompl.busy, .inl ⟨hbusy, hc, hcompl.done, hpending⟩⟩
  · obtain ⟨hres, hcnt, hisgen⟩ := ((s.hostTurn rest).noteCmdWrite (.wr r v)).portWrite_keeps_results r v
    simp [hres, hcnt, hisgen] at hchange
  · simp at hchange
  · exact ⟨rfl, .inr hp⟩
  · simp at hchange

/-- Settles O28: read off what a COMPLETE can do. -/
theorem commandsLeaveTheOperandsAlone : Obligations.CommandsLeaveTheOperandsAlone := by
  unfold Obligations.CommandsLeaveTheOperandsAlone
  intro i s hi
  obtain ⟨t, ht, hcompl⟩ := exec_completion hi s
  exact ⟨t, ht, hcompl.frame, hcompl.busy, hcompl.done⟩

theorem portRead_reset (r : Reg) : State.reset.portRead r = 0x0000#16 := by cases r <;> rfl

/-- Settles O1. -/
theorem resetValuesOfTheRegisters : Obligations.ResetValuesOfTheRegisters := by
  unfold Obligations.ResetValuesOfTheRegisters
  refine ⟨rfl, rfl, rfl, rfl, rfl, rfl, rfl, rfl, rfl, rfl, rfl, fun r => ⟨_, exec_rd r State.reset, ?_⟩⟩
  rw [State.logRead_reads, portRead_reset]
  rfl

/-- Settles O3: every clause is about fixed values. -/
theorem resetMeetsTheStateInvariant : Obligations.ResetMeetsTheStateInvariant := inv_reset

end Sys2Proof.Machine
end

section
/-! PROOFS. The host port (20_memory.md): what each register reads after a write, what the two transactions leave
unchanged, and what a step of the idle core keeps. -/

namespace Sys2Proof.Machine

/-! ## Reading after a write (R52, R92, R93) -/

/-- OPA and OPB store the low byte of the data and read it back zero-extended (R52). -/
theorem toNat_setWidth_lowByte (v : Word) : ((v.setWidth 8).setWidth 16).toNat = v.toNat % 256 := by
  rw [BitVec.toNat_setWidth_of_le (by decide), BitVec.toNat_setWidth]

theorem State.portRead_portWrite_self (s : State) {r : Reg} (hr : r ≠ .cmd) (v : Word) :
    ((s.portWrite r v).portRead r).toNat =
      if r = .opa ∨ r = .opb then v.toNat % 256
      else if r = .opk ∨ r = .opn then v.toNat
      else (s.portRead r).toNat := by
  cases r with
  | cmd => exact absurd rfl hr
  | opa | opb => exact toNat_setWidth_lowByte v
  | status | opk | opn | res | cnt => rfl

/-- A write shows in reads of the written register only (R52). -/
theorem State.portRead_portWrite_of_ne (s : State) {r r' : Reg} (hr : r ≠ .cmd) (hne : r ≠ r') (v : Word) :
    (s.portWrite r v).portRead r' = s.portRead r' := by
  obtain ⟨h, -⟩ | ⟨hcmd, -⟩ | ⟨rfl, h⟩ | ⟨rfl, h⟩ | ⟨rfl, h⟩ | ⟨rfl, h⟩ := s.portWrite_cases r v
  · rw [h]
  · exact absurd hcmd hr
  all_goals
    rw [h]
    cases r' <;> simp at hne ⊢

/-- An issue changes no register but CMD and STATUS (R94). -/
theorem State.portRead_issue_of_ne (s : State) (v : Word) {r : Reg} (hcmd : r ≠ .cmd) (hstatus : r ≠ .status) :
    (s.issue v).portRead r = s.portRead r := by
  cases r with
  | cmd => exact absurd rfl hcmd
  | status => exact absurd rfl hstatus
  | opa | opb | opk | opn | res | cnt => rfl

/-! ## Frame of the two transactions (R56, R92, R93) -/

/-- The instructions that are no command are the host's two transactions (R91). -/
theorem transaction_cases {i : Instr} {s t : State} (hi : isCommand i = false) (h : exec i s = .next t) :
    (∃ r v, i = .wr r v ∧ t = s.portWrite r v) ∨ ∃ r, i = .rd r ∧ t = s.logRead (s.portRead r) := by
  cases i with
  | wr r v => cases h; exact .inl ⟨r, v, rfl, rfl⟩
  | rd r => cases h; exact .inr ⟨r, rfl, rfl⟩
  | _ => cases hi

/-- A write leaves the host's program and what it has read as they were. -/
theorem State.portWrite_keeps_host (s : State) (r : Reg) (v : Word) :
    (s.portWrite r v).pending = s.pending ∧ (s.portWrite r v).reads = s.reads := by
  obtain ⟨h, -⟩ | ⟨-, -, h⟩ | ⟨-, h⟩ | ⟨-, h⟩ | ⟨-, h⟩ | ⟨-, h⟩ := s.portWrite_cases r v <;>
    rw [h] <;> exact ⟨rfl, rfl⟩

/-- A write that does not issue touches the operand registers only. -/
theorem State.portWrite_frame {s : State} {r : Reg} (h : r = .cmd → s.status.busy = true) (v : Word) :
    ∃ a b k n, s.portWrite r v = { s with opa := a, opb := b, opk := k, opn := n } := by
  obtain ⟨hw, -⟩ | ⟨rfl, hidle, -⟩ | ⟨-, hw⟩ | ⟨-, hw⟩ | ⟨-, hw⟩ | ⟨-, hw⟩ := s.portWrite_cases r v
  · exact ⟨_, _, _, _, hw⟩
  · exact absurd (h rfl) (Bool.eq_false_iff.1 hidle)
  all_goals exact ⟨_, _, _, _, hw⟩

/-- Each operand register changes only by a write to it. -/
theorem State.portWrite_keeps_operands (s : State) (r : Reg) (v : Word) :
    (r ≠ .opa → (s.portWrite r v).opa = s.opa) ∧ (r ≠ .opb → (s.portWrite r v).opb = s.opb) ∧
      (r ≠ .opk → (s.portWrite r v).opk = s.opk) ∧ (r ≠ .opn → (s.portWrite r v).opn = s.opn) := by
  obtain ⟨h, -⟩ | ⟨-, -, h⟩ | ⟨rfl, h⟩ | ⟨rfl, h⟩ | ⟨rfl, h⟩ | ⟨rfl, h⟩ := s.portWrite_cases r v <;>
    simp [h]

theorem Instr.reg_ne_of_wr_ne {r r' : Reg} {v : Word} (h : ∀ w, Instr.wr r v ≠ .wr r' w) : r ≠ r' := by
  rintro rfl
  exact h v rfl

/-! ## A step of the idle core (R59, R190) -/

/-- No instruction faults or is refused. -/
theorem exec_eq_next (i : Instr) (s : State) : ∃ t, exec i s = .next t := by
  cases hi : isCommand i with
  | true =>
    obtain ⟨t, ht, -⟩ := exec_completion hi s
    exact ⟨t, ht⟩
  | false =>
    cases i with
    | wr r v => exact ⟨_, exec_wr r v s⟩
    | rd r => exact ⟨_, exec_rd r s⟩
    | _ => cases hi

theorem step_eq_next (s : State) : ∃ t, step s = .next t := by
  cases hturn : s.turn with
  | run i u =>
    rw [step_of_run hturn]
    exact exec_eq_next i u
  | stay u => exact ⟨u, step_of_stay hturn⟩

/-- A write keeps STATUS or issues (R92, R94). -/
theorem State.portWrite_status_cases (s : State) (r : Reg) (v : Word) :
    (s.portWrite r v).status = s.status ∨ (s.portWrite r v).status = s.status.issued := by
  obtain ⟨h, -⟩ | ⟨-, -, h⟩ | ⟨-, h⟩ | ⟨-, h⟩ | ⟨-, h⟩ | ⟨-, h⟩ := s.portWrite_cases r v <;> rw [h]
  · exact .inl rfl
  · exact .inr rfl
  all_goals exact .inl rfl

/-! ## The obligations -/

/-- Settles O9: the written register stores the data in its own width, and every other register reads as before. -/
theorem readAfterWriteOnThePort : Obligations.ReadAfterWriteOnThePort := by
  unfold Obligations.ReadAfterWriteOnThePort
  refine ⟨fun s r r' v hr => ⟨_, exec_wr r v s, ?_⟩, fun s v => ⟨rfl, rfl, rfl⟩, fun s r' v hidle => ?_⟩
  · by_cases heq : r = r'
    · subst heq
      simpa using s.portRead_portWrite_self hr v
    · simp [s.portRead_portWrite_of_ne hr heq v, heq]
  · refine ⟨s.issue v, ?_, rfl, s.portRead_issue_of_ne v⟩
    rw [exec_wr, State.portWrite_cmd, State.writeCmd_of_idle v hidle]

/-- Settles O10: a write keeps what `State.portWrite_cases` does not name, and a read adds to the host's record only. -/
theorem transactionsLeaveTheRestAlone : Obligations.TransactionsLeaveTheRestAlone := by
  unfold Obligations.TransactionsLeaveTheRestAlone
  intro i s t hi h
  obtain ⟨r, v, rfl, rfl⟩ | ⟨r, rfl, rfl⟩ := transaction_cases hi h
  · obtain ⟨hres, hcnt, hisgen⟩ := s.portWrite_keeps_results r v
    obtain ⟨hpending, hreads⟩ := s.portWrite_keeps_host r v
    obtain ⟨hopa, hopb, hopk, hopn⟩ := s.portWrite_keeps_operands r v
    refine ⟨hres, hcnt, hisgen, hpending, fun hbusy => ?_, fun h => hopa (Instr.reg_ne_of_wr_ne h),
      fun h => hopb (Instr.reg_ne_of_wr_ne h), fun h => hopk (Instr.reg_ne_of_wr_ne h),
      fun h => hopn (Instr.reg_ne_of_wr_ne h), fun _ => hreads⟩
    have hbusy_of_cmd (hcmd : r = .cmd) : s.status.busy = true := hbusy v (congrArg (Instr.wr · v) hcmd)
    obtain ⟨a, b, k, n, hframe⟩ := State.portWrite_frame hbusy_of_cmd v
    rw [hframe]
    exact ⟨rfl, rfl, rfl, rfl, rfl, rfl, rfl⟩
  · exact ⟨rfl, rfl, rfl, rfl, fun _ => ⟨rfl, rfl, rfl, rfl, rfl, rfl, rfl⟩, fun _ => rfl, fun _ => rfl, fun _ => rfl,
      fun _ => rfl, fun h => absurd rfl (h r)⟩

/-- Settles O50: the idle core has no COMPLETE to take, so its step is a transaction, a poll or nothing, and these keep
the results; STATUS changes by an issue only. -/
theorem resultsAreKeptUntilTheNextIssue : Obligations.ResultsAreKeptUntilTheNextIssue := by
  unfold Obligations.ResultsAreKeptUntilTheNextIssue
  intro s hidle hreset
  obtain ⟨t, ht⟩ := step_eq_next s
  refine ⟨t, ht, ?_⟩
  obtain ⟨hc, -⟩ | ⟨-, -, rest, r, v, -, -, rfl⟩ | ⟨-, -, rest, r, rfl⟩ | ⟨-, rest, hp, -⟩ | ⟨-, -, rfl⟩ :=
    step_cases ht
  · simp [State.completes_of_idle hidle] at hc
  · obtain ⟨hres, hcnt, hisgen⟩ := ((s.hostTurn rest).noteCmdWrite (.wr r v)).portWrite_keeps_results r v
    refine ⟨hres, hcnt, hisgen, ?_⟩
    obtain hkept | hissued := ((s.hostTurn rest).noteCmdWrite (.wr r v)).portWrite_status_cases r v
    · exact .inl hkept
    · exact .inr ⟨congrArg Status.busy hissued, congrArg Status.err hissued⟩
  · exact ⟨rfl, rfl, rfl, .inl rfl⟩
  · exact absurd hp (hreset rest)
  · exact ⟨rfl, rfl, rfl, .inl rfl⟩

end Sys2Proof.Machine
end

section
/-! PROOFS. The two encoded objects (30_encoding.md): the fields of a packed command word and record, what decoding makes
of them, and that encoding goes back. -/

namespace Sys2Proof

open Machine
open Laws.EncodedForm (packCommand_toNat packHtx_toNat)

/-! ## Register indices (R51) -/

@[simp] theorem regOfIndex_indexOfReg (r : Reg) : regOfIndex (indexOfReg r) = r := by cases r <;> rfl

@[simp] theorem indexOfReg_regOfIndex : ∀ i : BitVec 3, indexOfReg (regOfIndex i) = i := by decide

/-- The register map as the list of R51. -/
theorem regOfIndex_eq_getD :
    ∀ i : BitVec 3, regOfIndex i = [Reg.cmd, .status, .opa, .opb, .opk, .opn, .res, .cnt].getD i.toNat .cmd := by
  decide

/-! ## Command words (R71, R77, R78) -/

theorem cmdRsv_toNat (w : Word) : (cmdRsv w).toNat = w.toNat / 16 := by
  have := w.isLt
  rw [cmdRsv, BitVec.extractLsb'_toNat, Nat.shiftRight_eq_div_pow]
  omega

theorem cmdOp_toNat (w : Word) : (cmdOp w).toNat = w.toNat % 16 := by
  rw [cmdOp, BitVec.extractLsb'_toNat, Nat.shiftRight_zero]

theorem packCommand_cmdRsv_cmdOp (w : Word) : packCommand (cmdRsv w) (cmdOp w) = w := by
  apply BitVec.eq_of_toNat_eq
  rw [packCommand_toNat, cmdRsv_toNat, cmdOp_toNat]
  omega

@[simp] theorem cmdRsv_packCommand (rsv : BitVec 12) (op : BitVec 4) : cmdRsv (packCommand rsv op) = rsv := by
  have := op.isLt
  apply BitVec.eq_of_toNat_eq
  rw [cmdRsv_toNat, packCommand_toNat]
  omega

@[simp] theorem cmdOp_packCommand (rsv : BitVec 12) (op : BitVec 4) : cmdOp (packCommand rsv op) = op := by
  have := op.isLt
  apply BitVec.eq_of_toNat_eq
  rw [cmdOp_toNat, packCommand_toNat]
  omega

theorem encode_instr (c : Command) : encode c.instr = .command c.word := by cases c <;> rfl

/-- The fields of an illegal word are those of no legal one (R78). -/
theorem wellFormed_illegal {w : Word} (h : ¬ (1 ≤ w.toNat ∧ w.toNat ≤ 7)) :
    (Instr.illegal (cmdRsv w) (cmdOp w)).WellFormed := by
  simp only [Instr.WellFormed, Instr.wellFormed, legalFields, Bool.not_eq_true', Bool.and_eq_false_iff,
    beq_eq_false_iff_ne, decide_eq_false_iff_not, ne_eq, ← BitVec.toNat_inj, BitVec.toNat_ofNat, cmdRsv_toNat,
    cmdOp_toNat]
  omega

theorem decodeCommand_wellFormed (w : Word) : (decodeCommand w).WellFormed := by
  obtain ⟨c, rfl⟩ | h := word_cases w
  · rw [decodeCommand_word]
    cases c <;> rfl
  · rw [decodeCommand_of_not_legal h]
    exact wellFormed_illegal h

/-- Every command word has one meaning (R77, R78). -/
theorem encode_decodeCommand (w : Word) : encode (decodeCommand w) = .command w := by
  obtain ⟨c, rfl⟩ | h := word_cases w
  · rw [decodeCommand_word, encode_instr]
  · rw [decodeCommand_of_not_legal h, encode, packCommand_cmdRsv_cmdOp]

/-! ## Records (R81) -/

section Fields

variable (w : Bool) (idx : BitVec 3) (data : Word) (r : Htx)

theorem htxW_toNat : (htxW r).toNat = r.toNat / 2 ^ 19 := by
  have := r.isLt
  rw [htxW, BitVec.getLsbD, Nat.toNat_testBit]
  omega

theorem htxIdx_toNat : (htxIdx r).toNat = r.toNat / 2 ^ 16 % 8 := by
  rw [htxIdx, BitVec.extractLsb'_toNat, Nat.shiftRight_eq_div_pow]

theorem htxData_toNat : (htxData r).toNat = r.toNat % 2 ^ 16 := by
  rw [htxData, BitVec.extractLsb'_toNat, Nat.shiftRight_zero]

@[simp] theorem htxW_packHtx : htxW (packHtx w idx data) = w := by
  rw [htxW, packHtx, BitVec.getLsbD_append]
  simp

@[simp] theorem htxIdx_packHtx : htxIdx (packHtx w idx data) = idx := by
  have := idx.isLt
  have := data.isLt
  apply BitVec.eq_of_toNat_eq
  rw [htxIdx_toNat, packHtx_toNat]
  omega

@[simp] theorem htxData_packHtx : htxData (packHtx w idx data) = data := by
  have := data.isLt
  apply BitVec.eq_of_toNat_eq
  rw [htxData_toNat, packHtx_toNat]
  omega

/-- A record is made of its three fields. -/
theorem packHtx_fields : packHtx (htxW r) (htxIdx r) (htxData r) = r := by
  apply BitVec.eq_of_toNat_eq
  rw [packHtx_toNat, htxW_toNat, htxIdx_toNat, htxData_toNat]
  omega

theorem packHtx_eq_ofNat :
    packHtx w idx data = BitVec.ofNat 20 (2 ^ 19 * w.toNat + 2 ^ 16 * idx.toNat + data.toNat) := by
  rw [← packHtx_toNat, BitVec.ofNat_toNat, BitVec.setWidth_eq]

@[simp] theorem decodeHtx_packHtx_write : decodeHtx (packHtx true idx data) = .wr (regOfIndex idx) data := by
  simp [decodeHtx]

@[simp] theorem decodeHtx_packHtx_read : decodeHtx (packHtx false idx data) = .rd (regOfIndex idx) := by
  simp [decodeHtx]

theorem decodeHtx_wellFormed : (decodeHtx r).WellFormed := by
  obtain ⟨reg, v, h⟩ | ⟨reg, h⟩ := decodeHtx_cases r <;> rw [h] <;> rfl

/-- A write's record has one meaning; a read's is encoded with DATA = 0 (R81). -/
theorem encode_decodeHtx_eq_iff : encode (decodeHtx r) = .htx r ↔ htxW r = true ∨ htxData r = 0#16 := by
  have hfields := packHtx_fields r
  cases hw : htxW r <;> rw [hw] at hfields
  · have hread : encode (decodeHtx r) = .htx (packHtx false (htxIdx r) 0#16) := by simp [decodeHtx, hw, encode]
    rw [hread, Encoded.htx.injEq]
    constructor
    · intro h
      rw [← h]
      exact .inr (htxData_packHtx ..)
    · rintro (h | h)
      · exact absurd h Bool.false_ne_true
      · rwa [h] at hfields
  · simp [decodeHtx, hw, encode, hfields]

end Fields

/-- Decoding goes back from every encoding (R77, R78, R81). -/
theorem decode_encode {i : Instr} (h : i.WellFormed) : decode (encode i) = i := by
  cases i with
  | fmul | finv | padd | pdbl | smulh | smull | order => rfl
  | illegal rsv op =>
    obtain ⟨w, hw, -, hillegal⟩ := Laws.EncodedForm.illegal rsv op h
    cases hw
    rw [encode, decode, decodeCommand_of_not_legal hillegal, cmdRsv_packCommand, cmdOp_packCommand]
  | wr reg data => simp [encode, decode]
  | rd reg => simp [encode, decode]

/-! ## The obligations -/

/-- Settles O11: word by word from the cases of a command word, and for records from their three fields. -/
theorem decodeAndEncodeAgree : Obligations.DecodeAndEncodeAgree := by
  unfold Obligations.DecodeAndEncodeAgree
  refine ⟨fun i => decode_encode, fun e => ?_, encode_decodeCommand, fun r => ?_⟩
  · cases e with
    | command w => exact decodeCommand_wellFormed w
    | htx r => exact decodeHtx_wellFormed r
  · rw [encode_decodeHtx_eq_iff, ← BitVec.toNat_inj, htxData_toNat]
    rfl

/-- Settles O12: a word is the word of one of the seven commands or illegal, and its fields are its quotient and its
remainder by 16. -/
theorem sevenLegalCommandWords : Obligations.SevenLegalCommandWords := by
  unfold Obligations.SevenLegalCommandWords
  intro w
  refine ⟨decodeCommand_eq_instr_iff (c := .fmul), decodeCommand_eq_instr_iff (c := .finv),
    decodeCommand_eq_instr_iff (c := .padd), decodeCommand_eq_instr_iff (c := .pdbl),
    decodeCommand_eq_instr_iff (c := .smulh), decodeCommand_eq_instr_iff (c := .smull),
    decodeCommand_eq_instr_iff (c := .order), ?_, fun h => ?_⟩
  · rintro ⟨rsv, op, h, -, -⟩
    have := not_legal_of_decodeCommand_eq_illegal h
    omega
  · exact ⟨cmdRsv w, cmdOp w, decodeCommand_of_not_legal (by omega), cmdRsv_toNat w, cmdOp_toNat w⟩

/-- Settles O13: the two records are the packed ones. -/
theorem recordFieldsSelectTheTransaction : Obligations.RecordFieldsSelectTheTransaction := by
  unfold Obligations.RecordFieldsSelectTheTransaction
  intro idx data
  have hwrite := packHtx_eq_ofNat true idx data
  have hread := packHtx_eq_ofNat false idx data
  simp only [Bool.toNat_true, Bool.toNat_false, Nat.mul_one, Nat.mul_zero, Nat.zero_add] at hwrite hread
  rw [← regOfIndex_eq_getD, ← hwrite, ← hread]
  exact ⟨decodeHtx_packHtx_write idx data, decodeHtx_packHtx_read idx data⟩

/-- Settles O14: the words are fixed numbers. -/
theorem specWordsDecode : Obligations.SpecWordsDecode := by
  unfold Obligations.SpecWordsDecode
  decide

end Sys2Proof
end

section
/-! PROOFS. Multiples of a point (43_scalar.md): they add as their numbers do, for every one of the 256 bytes, so that
both scalar modes form the d-fold sum (R154); and the bound of `order_of`. -/

namespace Sys2Proof.Machine

/-! ## Multiples on numbers -/

/-- `multiple` on numbers. -/
def multipleNat (g : Nat) : Nat → Nat
  | 0 => 0
  | n + 1 => ptAddNat (multipleNat g n) g

theorem multiple_toNat (g : Point) (n : Nat) : (multiple g n).toNat = multipleNat g.toNat n := by
  induction n with
  | zero => rfl
  | succ n ih => rw [multiple_succ, ptAdd_toNat, ih, multipleNat]

/-! ## The cyclic subgroups of the 16 curves (R138) -/

/-- A generator of each maximal cyclic subgroup of the 16 curves, with its order: 15 of the curves are cyclic, the one
with b' = 1 is not. -/
def curveGenerators : List (Point × Nat) :=
  [(0xF9#8, 17), (0x5E#8, 6), (0x4E#8, 6), (0x33#8, 6), (0x2A#8, 6), (0x76#8, 18), (0x7E#8, 18), (0x77#8, 18)] ++
    [(0x7F#8, 18), (0x3B#8, 10), (0x57#8, 10), (0x74#8, 14), (0x7C#8, 22), (0x6D#8, 14), (0x67#8, 22)] ++
    [(0x66#8, 14), (0x6C#8, 22), (0x75#8, 22), (0x7D#8, 14)]

/-- The order given for a generator leads to INF. -/
theorem multiple_generator_order {g : Point} {o : Nat} (hg : (g, o) ∈ curveGenerators) :
    0 < o ∧ multiple g o = inf := by
  have hall : (curveGenerators.all fun x => 0 < x.2 && multipleNat x.1.toNat x.2 == 0) = true := by decide +kernel
  obtain ⟨hpos, hinf⟩ := Bool.and_eq_true_iff.1 (List.all_eq_true.1 hall _ hg)
  exact ⟨of_decide_eq_true hpos, BitVec.eq_of_toNat_eq ((multiple_toNat g o).trans (beq_iff_eq.1 hinf))⟩

/-- The addition table of a generator's multiples. -/
theorem multipleNat_add {g : Point} {o m n : Nat} (hg : (g, o) ∈ curveGenerators) (hm : m < o) (hn : n < o) :
    ptAddNat (multipleNat g.toNat m) (multipleNat g.toNat n) = multipleNat g.toNat (m + n) := by
  have hall : (curveGenerators.all fun x => checkBelow x.2 fun m => checkBelow x.2 fun n =>
      ptAddNat (multipleNat x.1.toNat m) (multipleNat x.1.toNat n) == multipleNat x.1.toNat (m + n)) = true := by
    decide +kernel
  exact beq_iff_eq.1 (checkBelow_spec (checkBelow_spec (List.all_eq_true.1 hall _ hg) m hm) n hn)

/-- A list of numbers as a number: bit k is set when k is in the list. -/
def listMask (l : List Nat) : Nat := l.foldr (fun k m => 1 <<< k ||| m) 0

theorem mem_of_testBit_listMask {l : List Nat} {k : Nat} (h : (listMask l).testBit k = true) : k ∈ l := by
  induction l with
  | nil => simp [listMask] at h
  | cons a l ih =>
    have hcons : listMask (a :: l) = 1 <<< a ||| listMask l := rfl
    rw [hcons, Nat.testBit_or, Bool.or_eq_true, Nat.one_shiftLeft, Nat.testBit_two_pow] at h
    obtain h | h := h
    · exact List.mem_cons.2 (.inl (of_decide_eq_true h).symm)
    · exact List.mem_cons_of_mem a (ih h)

/-- The generators reach every byte, on the curve of R130 or not. -/
theorem exists_generator (p : Point) : ∃ g o k, (g, o) ∈ curveGenerators ∧ p = multiple g k := by
  have hmask : listMask (curveGenerators.flatMap fun x => (List.range x.2).map (multipleNat x.1.toNat)) =
      2 ^ 256 - 1 := by decide +kernel
  have hbit : (2 ^ 256 - 1).testBit p.toNat = true := by
    rw [Nat.testBit_two_pow_sub_one]
    exact decide_eq_true p.isLt
  rw [← hmask] at hbit
  obtain ⟨⟨g, o⟩, hg, hp⟩ := List.mem_flatMap.1 (mem_of_testBit_listMask hbit)
  obtain ⟨k, -, hk⟩ := List.mem_map.1 hp
  exact ⟨g, o, k, hg, BitVec.eq_of_toNat_eq ((multiple_toNat g k).trans hk).symm⟩

/-! ## Multiples repeat with the order -/

theorem multiple_add_of_inf {g : Point} {n : Nat} (h : multiple g n = inf) (k : Nat) :
    multiple g (k + n) = multiple g k := by
  induction k with
  | zero => rw [Nat.zero_add, h, multiple_zero]
  | succ k ih => rw [Nat.succ_add, multiple_succ, ih, multiple_succ]

theorem multiple_mod {g : Point} {n : Nat} (h : multiple g n = inf) (k : Nat) : multiple g (k % n) = multiple g k := by
  have hrep (q r : Nat) : multiple g (r + n * q) = multiple g r := by
    induction q with
    | zero => rfl
    | succ q ih => rw [Nat.mul_succ, ← Nat.add_assoc, multiple_add_of_inf h, ih]
  rw [← hrep (k / n) (k % n), Nat.mod_add_div]

/-! ## Multiples add (R138, R154) -/

theorem multiple_add_of_generator {g : Point} {o : Nat} (hg : (g, o) ∈ curveGenerators) (m n : Nat) :
    multiple g (m + n) = ptAdd (multiple g m) (multiple g n) := by
  obtain ⟨hpos, hinf⟩ := multiple_generator_order hg
  have hsum : multiple g (m % o + n % o) = ptAdd (multiple g (m % o)) (multiple g (n % o)) := by
    apply BitVec.eq_of_toNat_eq
    simp only [ptAdd_toNat, multiple_toNat]
    exact (multipleNat_add hg (Nat.mod_lt m hpos) (Nat.mod_lt n hpos)).symm
  rw [← multiple_mod hinf, Nat.add_mod, multiple_mod hinf, hsum, multiple_mod hinf, multiple_mod hinf]

theorem multiple_multiple_of_generator {g : Point} {o : Nat} (hg : (g, o) ∈ curveGenerators) (k n : Nat) :
    multiple (multiple g k) n = multiple g (k * n) := by
  induction n with
  | zero => rfl
  | succ n ih => rw [multiple_succ, ih, Nat.mul_succ, multiple_add_of_generator hg]

/-- The multiples of every byte add as their numbers do, because the byte is itself a multiple of a generator. -/
theorem multiple_add (p : Point) (m n : Nat) : multiple p (m + n) = ptAdd (multiple p m) (multiple p n) := by
  obtain ⟨g, o, k, hg, rfl⟩ := exists_generator p
  simp only [multiple_multiple_of_generator hg, multiple_add_of_generator hg, Nat.mul_add]

theorem ptDbl_eq_ptAdd (p : Point) : ptDbl p = ptAdd p p := by
  by_cases h : p = inf
  · rw [h, ptAdd, ptAddWith_inf_left]
    exact ptDblWith_of_x_zero romValue (by decide)
  · exact (ptAddWith_self romValue h).symm

theorem ptDbl_multiple (p : Point) (n : Nat) : ptDbl (multiple p n) = multiple p (2 * n) := by
  rw [ptDbl_eq_ptAdd, ← multiple_add, Nat.two_mul]

/-! ## The two scalar modes form the d-fold sum (R154) -/

/-- Taking one bit more of a scalar from above. -/
theorem toNat_div_two_pow (d : Word) (i : Nat) :
    d.toNat / 2 ^ i = 2 * (d.toNat / 2 ^ (i + 1)) + (d.getLsbD i).toNat := by
  rw [BitVec.getLsbD, Nat.toNat_testBit, Nat.pow_succ, ← Nat.div_div_eq_div_mul, Nat.div_add_mod]

/-- Taking one bit more of a scalar from below. -/
theorem toNat_mod_two_pow_succ (d : Word) (i : Nat) :
    d.toNat % 2 ^ (i + 1) = d.toNat % 2 ^ i + 2 ^ i * (d.getLsbD i).toNat := by
  rw [BitVec.getLsbD, Nat.toNat_testBit, Nat.mod_pow_succ]

/-- The loop of `smul_h2l` holds the multiple of the scalar's upper bits. -/
theorem h2lLoop_multiple (p : Point) (d : Word) (i : Nat) :
    h2lLoop p d i (multiple p (d.toNat / 2 ^ i)) = multiple p d.toNat := by
  induction i with
  | zero => rw [h2lLoop_zero, Nat.pow_zero, Nat.div_one]
  | succ i ih =>
    rw [← ih, h2lLoop_succ, ptDbl_multiple, ← multiple_succ, toNat_div_two_pow d i]
    cases d.getLsbD i <;> rfl

/-- The topmost set bit among the lowest `n`, found as `topBit` finds it, leaves the quotient 1. -/
theorem mod_div_two_pow_foldl {d : Word} {n : Nat} (h : d.toNat % 2 ^ n ≠ 0) :
    d.toNat % 2 ^ n / 2 ^ (List.range n).foldl (fun t i => if d.getLsbD i then i else t) 0 = 1 := by
  induction n with
  | zero => exact absurd (Nat.mod_one _) h
  | succ n ih =>
    rw [toNat_mod_two_pow_succ] at h ⊢
    rw [List.range_succ, List.foldl_append, List.foldl_cons, List.foldl_nil]
    cases hb : d.getLsbD n with
    | false =>
      rw [hb] at h
      exact ih h
    | true =>
      have hpos := Nat.two_pow_pos n
      rw [if_pos rfl, Bool.toNat_true, Nat.mul_one, Nat.add_div_right _ hpos, Nat.div_eq_of_lt (Nat.mod_lt _ hpos)]

/-- From the topmost set bit up a scalar is 1 (R150). -/
theorem div_two_pow_topBit {d : Word} (h : d ≠ 0#16) : d.toNat / 2 ^ topBit d = 1 := by
  have hmod : d.toNat % 2 ^ 16 = d.toNat := Nat.mod_eq_of_lt d.isLt
  have hne : d.toNat % 2 ^ 16 ≠ 0 := fun h0 => h (BitVec.eq_of_toNat_eq (hmod.symm.trans h0))
  have hquot := mod_div_two_pow_foldl hne
  rwa [hmod] at hquot

theorem smulH2l_eq_multiple (p : Point) (d : Word) : smulH2l p d = multiple p d.toNat := by
  rw [smulH2l]
  split
  case isTrue h => rw [h]; rfl
  case isFalse h =>
    have hloop := h2lLoop_multiple p d (topBit d)
    rwa [div_two_pow_topBit h, multiple_one] at hloop

/-- The loop of `smul_l2h` holds the multiple of the scalar's lower bits and the base doubled i times. -/
theorem l2hLoop_multiple (p : Point) (d : Word) (n i : Nat) :
    l2hLoop d n i (multiple p (d.toNat % 2 ^ i)) (multiple p (2 ^ i)) = multiple p (d.toNat % 2 ^ (i + n)) := by
  induction n generalizing i with
  | zero => rw [l2hLoop_zero, Nat.add_zero]
  | succ n ih =>
    have hacc : (if d.getLsbD i then ptAdd (multiple p (d.toNat % 2 ^ i)) (multiple p (2 ^ i))
        else multiple p (d.toNat % 2 ^ i)) = multiple p (d.toNat % 2 ^ (i + 1)) := by
      rw [toNat_mod_two_pow_succ]
      cases d.getLsbD i <;> simp [multiple_add]
    rw [l2hLoop_succ, hacc, ptDbl_multiple, ← Nat.pow_succ', ih, Nat.add_right_comm, Nat.add_assoc]

theorem smulL2h_eq_multiple (p : Point) (d : Word) : smulL2h p d = multiple p d.toNat := by
  have hloop := l2hLoop_multiple p d 16 0
  rwa [Nat.pow_zero, Nat.mod_one, multiple_zero, multiple_one, Nat.zero_add, Nat.mod_eq_of_lt d.isLt] at hloop

/-! ## An order that is not found (R170, R171) -/

theorem orderLoop_eq_none {g : Point} {n c : Nat} (h : orderLoop g n (multiple g c) c = none) :
    ∀ j, c ≤ j → j < c + n → multiple g j ≠ inf := by
  induction n generalizing c with
  | zero => intro j hcj hjc; omega
  | succ n ih =>
    intro j hcj hjc
    by_cases hc : multiple g c = inf
    · rw [hc, orderLoop_of_inf] at h
      cases h
    · rw [orderLoop_of_ne_inf n c hc, ← multiple_succ] at h
      obtain heq | hlt := Nat.eq_or_lt_of_le hcj
      · exact heq ▸ hc
      · exact ih h j hlt (by omega)

/-- No order is found only where the order is above the bound. -/
theorem lt_of_orderOf_eq_none {g : Point} {m : Word} {k : Nat} (h : orderOf g m = none) (hk : IsOrder g k) :
    m.toNat < k := by
  obtain ⟨hpos, hinf, -⟩ := hk
  rw [orderOf] at h
  nth_rw 2 [← multiple_one g] at h
  by_contra hle
  exact orderLoop_eq_none h k hpos (by omega) hinf

end Sys2Proof.Machine
end

section
/-! PROOFS. Host transactions and waits (R83, R103): how a placed word runs, what one write of the host's program does,
how WAIT ends, and from these the run of a whole pseudo-instruction. What the core holds is compared by its own thirteen
fields. -/

namespace Sys2Proof.Machine

/-! ## What the core alone holds -/

/-- The core's own fields (R20, R23, R31), with those of the outside agents forgotten (log 3). -/
def State.coreOnly (s : State) : State :=
  { s with pending := [], reads := [], due := 0, latencies := [], issues := 0, cmdLost := false }

theorem State.registers_coreOnly (s : State) : s.coreOnly.registers = s.registers := rfl

/-- A command computes from the core's own fields and leaves the others alone (R96, R101). -/
theorem exec_coreOnly {i : Instr} {s t : State} (hi : isCommand i = true) (h : exec i s = .next t) :
    exec i s.coreOnly = .next t.coreOnly := by
  cases i with
  | fmul | padd | pdbl | smulh | smull | illegal => cases h; rfl
  | finv =>
    cases hinv : gfInv s.eltA with
    | none => rw [exec_finv_of_zero hinv] at h; cases h; exact exec_finv_of_zero hinv
    | some r => rw [exec_finv_of_some hinv] at h; cases h; exact exec_finv_of_some hinv
  | order =>
    cases hord : orderOf s.pointA s.bound with
    | none => rw [exec_order_of_none hord] at h; cases h; exact exec_order_of_none hord
    | some n => rw [exec_order_of_some hord] at h; cases h; exact exec_order_of_some hord
  | wr r v => cases hi
  | rd r => cases hi

/-- A write that is no CMD write acts on the core's own fields only (R92). -/
theorem State.coreOnly_portWrite (s : State) {r : Reg} (hr : r ≠ .cmd) (v : Word) :
    (s.portWrite r v).coreOnly = s.coreOnly.portWrite r v := by
  cases r with
  | cmd => exact absurd rfl hr
  | _ => rfl

theorem State.status_portWrite (s : State) {r : Reg} (hr : r ≠ .cmd) (v : Word) :
    (s.portWrite r v).status = s.status := by
  cases r with
  | cmd => exact absurd rfl hr
  | _ => rfl

/-! ## A placed word (R70) -/

theorem step_placed_record (s : State) (r : Htx) :
    step (s.placeEncoded (.htx r)) =
      exec (decodeHtx r) { s with cmdLost := if r.toNat / 2 ^ 16 = 8 then s.status.busy else s.cmdLost } := by
  have hc : (s.placeEncoded (.htx r)).completes = false := by simp [State.completes, State.placeEncoded]
  rw [step_of_run (State.turn_of_htx hc rfl), State.hostTurn_noteCmdWrite]
  rfl

theorem step_placed_command (s : State) (w : Word) :
    step (s.placeEncoded (.command w)) = exec (decodeCommand w) { s.issueRegs w with due := 0 } := by
  have hc : (s.placeEncoded (.command w)).completes = true := (State.completes_iff _).2 ⟨rfl, .inl rfl⟩
  exact step_of_run (State.turn_of_completes hc)

theorem frameBits_record {w : Nat} (hw : w < 2 ^ 20) : frameBits 24 w = .ok (.htx (BitVec.ofNat 20 w)) := by
  rw [frameBits, if_neg (by decide), if_pos (by decide), if_pos hw]

theorem frameBits_command {w : Nat} (hw : w < 2 ^ 16) : frameBits 16 w = .ok (.command (BitVec.ofNat 16 w)) := by
  rw [frameBits, if_pos (by decide), if_pos hw]

theorem withFetchWord_of_frameBits (s : State) {nbits w : Nat} {e : Encoded} (h : frameBits nbits w = .ok e) :
    s.withFetchWord nbits w = s.placeEncoded e := by
  simp only [State.withFetchWord, State.placeBits, h]

/-! ## Runs that reach a state -/

/-- Some number of steps leads from `s` to `t`. -/
def Reaches (s t : State) : Prop := ∃ k, run k s = .next t

theorem Reaches.refl (s : State) : Reaches s s := ⟨0, rfl⟩

theorem Reaches.trans {s t u : State} (hst : Reaches s t) (htu : Reaches t u) : Reaches s u := by
  obtain ⟨j, hj⟩ := hst
  obtain ⟨k, hk⟩ := htu
  exact ⟨j + k, by rw [run_add j k hj, hk]⟩

theorem run_one {s t : State} (h : step s = .next t) : run 1 s = .next t := run_succ 0 h

theorem Reaches.of_step {s t : State} (h : step s = .next t) : Reaches s t := ⟨1, run_one h⟩

/-! ## WAIT (R83) -/

theorem step_wait {s : State} {rest : List HostAction} (hc : s.completes = false) (hp : s.pending = .waitBusy :: rest) :
    step s = .next ((s.hostTurn (if s.status.busy then .waitBusy :: rest else rest)).logRead s.status.word) := by
  rw [step_of_run (State.turn_of_waitBusy hc hp), exec_rd]
  rfl

/-- WAIT while idle ends with its first poll. -/
theorem step_wait_of_idle {s : State} {rest : List HostAction} (hidle : s.status.busy = false)
    (hp : s.pending = .waitBusy :: rest) : step s = .next ((s.hostTurn rest).logRead s.status.word) := by
  rw [step_wait (State.completes_of_idle hidle) hp, hidle]
  rfl

/-- WAIT while a command is in flight: after the polls still due COMPLETE comes, and one poll more ends it. -/
theorem run_wait_of_busy {s : State} {rest : List HostAction} (hbusy : s.status.busy = true)
    (hp : s.pending = .waitBusy :: rest) :
    ∃ k t, k ≤ s.due + 2 ∧ run k s = .next t ∧ t.pending = rest ∧
      exec (decodeCommand s.latCmd) s.coreOnly = .next t.coreOnly := by
  have hi := isCommand_decodeCommand s.latCmd
  induction hd : s.due generalizing s with
  | zero =>
    obtain ⟨u, hu, hcompl⟩ := exec_completion hi s
    have hstep : step s = .next u := by
      rw [step_of_run (State.turn_of_completes (s.completes_iff.2 ⟨hbusy, .inl hd⟩)), hu]
    have hpu : u.pending = .waitBusy :: rest := by rw [hcompl.frame]; exact hp
    have hexec : exec (decodeCommand s.latCmd) s.coreOnly = .next u.coreOnly := exec_coreOnly hi hu
    refine ⟨2, (u.hostTurn rest).logRead u.status.word, Nat.le_refl 2, ?_, rfl, hexec⟩
    rw [run_succ 1 hstep, run_one (step_wait_of_idle hcompl.busy hpu)]
  | succ n ih =>
    have hc : s.completes = false := by simp [State.completes, hd, hp]
    have hstep := step_wait hc hp
    rw [hbusy, if_pos rfl] at hstep
    obtain ⟨k, t, hk, hrun, hpt, hexec⟩ :=
      ih (s := (s.hostTurn (.waitBusy :: rest)).logRead s.status.word) hbusy rfl hi (by simp [hd])
    exact ⟨k + 1, t, by omega, by rw [run_succ k hstep, hrun], hpt, hexec⟩

/-- A command's COMPLETE, seen on the core's own fields, leaves the core idle with DONE = 1. -/
theorem status_of_exec_coreOnly {i : Instr} {s t : State} (hi : isCommand i = true)
    (h : exec i s = .next t.coreOnly) : t.status.busy = false ∧ t.status.done = true :=
  have hcompl := completion_of_exec hi h
  ⟨hcompl.busy, hcompl.done⟩

/-! ## Pseudo-instructions (R83) -/

theorem wrAction_eq_ofNat (r : Reg) (v : Word) :
    wrAction r v = .htx (BitVec.ofNat 20 (2 ^ 19 + 2 ^ 16 * (indexOfReg r).toNat + v.toNat)) := by
  rw [wrAction, packHtx_eq_ofNat]
  rfl

/-- A write of the host's program, when no COMPLETE comes before it. -/
theorem step_wrAction {s : State} {r : Reg} {v : Word} {rest : List HostAction} (hc : s.completes = false)
    (hp : s.pending = wrAction r v :: rest) :
    step s = .next (((s.hostTurn rest).noteCmdWrite (.wr r v)).portWrite r v) := by
  rw [step_of_run (State.turn_of_htx hc hp), decodeHtx_packHtx_write, regOfIndex_indexOfReg, exec_wr]

/-- The port writes of a list of operands, first to last. -/
def State.writeOperands (s : State) (ops : List (Reg × Word)) : State :=
  ops.foldl (fun u o => u.portWrite o.1 o.2) s

/-- The host lines that write a list of operands. -/
def operandActions (ops : List (Reg × Word)) : List HostAction := ops.map fun o => wrAction o.1 o.2

/-- The idle core takes the operands and stays idle. -/
theorem reaches_operands {s : State} {ops : List (Reg × Word)} {rest : List HostAction}
    (hops : ∀ o ∈ ops, o.1 ≠ .cmd) (hidle : s.status.busy = false) (hp : s.pending = operandActions ops ++ rest) :
    ∃ t, Reaches s t ∧ t.pending = rest ∧ t.status.busy = false ∧ t.coreOnly = s.coreOnly.writeOperands ops := by
  induction ops generalizing s with
  | nil => exact ⟨s, .refl s, hp, hidle, rfl⟩
  | cons o ops ih =>
    obtain ⟨ho, hops⟩ := List.forall_mem_cons.1 hops
    let u := (s.hostTurn (operandActions ops ++ rest)).noteCmdWrite (.wr o.1 o.2)
    have hstep : step s = .next (u.portWrite o.1 o.2) := step_wrAction (State.completes_of_idle hidle) hp
    obtain ⟨hpending, -⟩ := u.portWrite_keeps_host o.1 o.2
    have hstatus : (u.portWrite o.1 o.2).status = s.status := u.status_portWrite ho o.2
    obtain ⟨t, hreach, hpt, hidlet, hcore⟩ := ih hops (hstatus ▸ hidle) hpending
    refine ⟨t, (Reaches.of_step hstep).trans hreach, hpt, hidlet, ?_⟩
    rw [hcore, State.coreOnly_portWrite _ ho]
    rfl

/-- An issue from the idle core. -/
theorem step_issueAction {s : State} {c : Command} {rest : List HostAction} (hidle : s.status.busy = false)
    (hp : s.pending = issueAction c :: rest) :
    ∃ t, step s = .next t ∧ t.pending = rest ∧ t.status.busy = true ∧ t.latCmd = c.word ∧
      t.coreOnly = s.coreOnly.issueRegs c.word := by
  have hstep := step_wrAction (State.completes_of_idle hidle) hp
  rw [State.portWrite_cmd, State.writeCmd_of_idle (s := (s.hostTurn rest).noteCmdWrite _) _ hidle] at hstep
  exact ⟨_, hstep, rfl, rfl, rfl, rfl⟩

/-- Operands, ISSUE and WAIT run from the idle core to their end, where the core holds what the command computes from
the operands written; when COMPLETE came between does not matter (R83, R218). -/
theorem reaches_expansion_end {s : State} {ops : List (Reg × Word)} {c : Command} {rest : List HostAction}
    (hops : ∀ o ∈ ops, o.1 ≠ .cmd) (hidle : s.status.busy = false)
    (hp : s.pending = operandActions ops ++ issueAction c :: .waitBusy :: rest) :
    ∃ t, Reaches s t ∧ t.pending = rest ∧
      exec c.instr ((s.coreOnly.writeOperands ops).issueRegs c.word) = .next t.coreOnly := by
  obtain ⟨u, hsu, hpu, hidleu, hcoreu⟩ := reaches_operands hops hidle hp
  obtain ⟨v, huv, hpv, hbusyv, hlatv, hcorev⟩ := step_issueAction hidleu hpu
  obtain ⟨k, t, -, hvt, hpt, hexec⟩ := run_wait_of_busy hbusyv hpv
  rw [hlatv, decodeCommand_word, hcorev, hcoreu] at hexec
  exact ⟨t, (hsu.trans (.of_step huv)).trans ⟨k, hvt⟩, hpt, hexec⟩

/-- The operands a pseudo-instruction writes, in the rule's order (R83). -/
def Pseudo.operands : Pseudo → List (Reg × Word)
  | .issue _ | .wait => []
  | .fmul a b | .padd a b => [(.opa, a), (.opb, b)]
  | .finv a | .pdbl a => [(.opa, a)]
  | .smulh p d | .smull p d => [(.opa, p), (.opk, d)]
  | .order g m n => [(.opa, g), (.opk, m), (.opn, n)]

/-- The command a pseudo-instruction issues (R83). -/
def Pseudo.command? : Pseudo → Option Command
  | .issue c => some c
  | .wait => none
  | .fmul _ _ => some .fmul
  | .finv _ => some .finv
  | .padd _ _ => some .padd
  | .pdbl _ => some .pdbl
  | .smulh _ _ => some .smulh
  | .smull _ _ => some .smull
  | .order _ _ _ => some .order

theorem Pseudo.operands_ne_cmd (p : Pseudo) : ∀ o ∈ p.operands, o.1 ≠ .cmd := by
  cases p <;> simp [Pseudo.operands]

/-- An expansion that computes writes its operands, issues its command and waits (R83). -/
theorem Pseudo.expand_of_isMacro {p : Pseudo} (h : p.isMacro = true) :
    ∃ c, p.command? = some c ∧ p.expand = operandActions p.operands ++ [issueAction c, .waitBusy] := by
  cases p with
  | issue c => cases h
  | wait => cases h
  | _ => exact ⟨_, rfl, rfl⟩

theorem isCommand_instr (c : Command) : isCommand c.instr = true := by cases c <;> rfl

/-! ## What the command of an expansion leaves -/

/-- A field operand is the low nibble of the data word written (R52, R73). -/
theorem extractLsb'_setWidth_nibble (a : Word) : (a.setWidth 8).extractLsb' 0 4 = a.setWidth 4 := by
  apply BitVec.eq_of_toNat_eq
  rw [BitVec.extractLsb'_toNat, Nat.shiftRight_zero, BitVec.toNat_setWidth, BitVec.toNat_setWidth]
  omega

theorem setWidth_nibble_eq_zero_iff (a : Word) : a.setWidth 4 = 0#4 ↔ a.toNat % 16 = 0 := by
  rw [← BitVec.toNat_inj, BitVec.toNat_setWidth]
  rfl

theorem setWidth_eltResult (r : Elt) : (eltResult r).setWidth 4 = r := by
  rw [eltResult, BitVec.setWidth_setWidth_of_le _ (by decide), BitVec.setWidth_eq]

/-- The ROM's values are the inverses (R116). -/
theorem gfMul_romValue : ∀ a : Elt, a ≠ 0#4 → gfMul a (romValue a) = 1#4 := by decide

/-- An order fits into CNT. -/
theorem IsOrder.toNat_ofNat {g : Point} {n : Nat} (h : IsOrder g n) : (BitVec.ofNat 16 n).toNat = n := by
  have := h.le_22
  rw [BitVec.toNat_ofNat, Nat.mod_eq_of_lt (by omega)]

section CommandResult

variable {x t : State}

/-- A command that writes RES keeps CNT (R102). -/
theorem coreOnly_of_setRes {v : BitVec 8} {code : BitVec 3}
    (h : (.next ((x.setRes v).finish code) : Host.Outcome State Fault Refusal) = .next t.coreOnly) :
    t.res = v ∧ t.status.err = code ∧ t.cnt = x.cnt := by
  have heq := Host.Outcome.next.inj h
  exact ⟨(congrArg State.res heq).symm, (congrArg (fun u => u.status.err) heq).symm, (congrArg State.cnt heq).symm⟩

/-- ORDER writes CNT and ISGEN and keeps RES (R102, R171). -/
theorem coreOnly_of_setOrder {n : Word} {g : Bool} {code : BitVec 3}
    (h : (.next ((x.setOrder n g).finish code) : Host.Outcome State Fault Refusal) = .next t.coreOnly) :
    t.res = x.res ∧ t.cnt = n ∧ t.status.isgen = g ∧ t.status.err = code := by
  have heq := Host.Outcome.next.inj h
  exact ⟨(congrArg State.res heq).symm, (congrArg State.cnt heq).symm,
    (congrArg (fun u => u.status.isgen) heq).symm, (congrArg (fun u => u.status.err) heq).symm⟩

/-- FINV's result for a data word: the inverse of its low nibble, or NO_INVERSE (R113). -/
theorem finv_result {a : Word} (h : exec .finv x = .next t.coreOnly) (ha : x.eltA = a.setWidth 4) :
    t.cnt = x.cnt ∧
      if a.toNat % 16 = 0 then t.res = 0x00#8 ∧ t.status.err = 1#3
      else t.res.toNat < 16 ∧ gfMul (a.setWidth 4) (t.res.setWidth 4) = 1#4 ∧ t.status.err = 0#3 := by
  by_cases hzero : a.setWidth 4 = 0#4
  · rw [exec_finv_of_zero (by rw [ha, hzero, gfInv_zero])] at h
    obtain ⟨hres, herr, hcnt⟩ := coreOnly_of_setRes h
    rw [if_pos ((setWidth_nibble_eq_zero_iff a).1 hzero)]
    exact ⟨hcnt, hres, herr⟩
  · rw [exec_finv_of_some (by rw [ha, gfInv_of_ne_zero hzero])] at h
    obtain ⟨hres, herr, hcnt⟩ := coreOnly_of_setRes h
    rw [if_neg (mt (setWidth_nibble_eq_zero_iff a).2 hzero), hres, setWidth_eltResult]
    exact ⟨hcnt, eltResult_toNat_lt _, gfMul_romValue _ hzero, herr⟩

/-- ORDER's result: the order of the point and the verdict, or ORDER_NOT_FOUND (R171, R172). -/
theorem order_result (h : exec .order x = .next t.coreOnly) :
    t.res = x.res ∧
      ((IsOrder x.pointA t.cnt.toNat ∧ t.cnt.toNat ≤ x.bound.toNat ∧ t.status.err = 0#3 ∧
          (t.status.isgen = true ↔ t.cnt = x.cardinality)) ∨
        ((∀ k, IsOrder x.pointA k → x.bound.toNat < k) ∧ t.cnt = 0#16 ∧ t.status.err = 2#3 ∧
          t.status.isgen = false)) := by
  cases hord : orderOf x.pointA x.bound with
  | some n =>
    rw [exec_order_of_some hord] at h
    obtain ⟨hres, hcnt, hisgen, herr⟩ := coreOnly_of_setOrder h
    obtain ⟨hn, hle⟩ := isOrder_of_orderOf hord
    rw [hcnt, hn.toNat_ofNat, hisgen]
    exact ⟨hres, .inl ⟨hn, hle, herr, beq_iff_eq⟩⟩
  | none =>
    rw [exec_order_of_none hord] at h
    obtain ⟨hres, hcnt, hisgen, herr⟩ := coreOnly_of_setOrder h
    exact ⟨hres, .inr ⟨fun _ => lt_of_orderOf_eq_none hord, hcnt, herr, hisgen⟩⟩

end CommandResult

/-! ## The obligations -/

/-- Settles O54: an idle WAIT ends at once; otherwise it ends one poll after COMPLETE. -/
theorem waitEndsWithTheResults : Obligations.WaitEndsWithTheResults := by
  unfold Obligations.WaitEndsWithTheResults
  intro s rest hp
  cases hbusy : s.status.busy with
  | false =>
    exact ⟨1, _, by omega, run_one (step_wait_of_idle hbusy hp), rfl, hbusy, fun _ => rfl, (fun h => nomatch h)⟩
  | true =>
    obtain ⟨k, t, hk, hrun, hpt, hexec⟩ := run_wait_of_busy hbusy hp
    have hi := isCommand_decodeCommand s.latCmd
    obtain ⟨u, hu⟩ := exec_eq_next (decodeCommand s.latCmd) s
    have hcore : u.coreOnly = t.coreOnly := Host.Outcome.next.inj ((exec_coreOnly hi hu).symm.trans hexec)
    obtain ⟨hidle, -⟩ := status_of_exec_coreOnly hi hexec
    exact ⟨k, t, hk, hrun, hpt, hidle, (fun h => nomatch h),
      fun _ => ⟨u, hu, by rw [← t.registers_coreOnly, ← hcore, u.registers_coreOnly]⟩⟩

/-- Settles O57: every expansion ends with the results of its command on the operands written, which are what the
command's rule says. -/
theorem macrosComputeForEveryLatency : Obligations.MacrosComputeForEveryLatency := by
  unfold Obligations.MacrosComputeForEveryLatency
  intro p s rest hmacro hidle hp
  obtain ⟨c, hcommand, hexpand⟩ := Pseudo.expand_of_isMacro hmacro
  rw [hexpand, List.append_assoc] at hp
  obtain ⟨t, ⟨k, hrun⟩, hpt, hexec⟩ := reaches_expansion_end p.operands_ne_cmd hidle hp
  obtain ⟨hbusy, hdone⟩ := status_of_exec_coreOnly (isCommand_instr c) hexec
  refine ⟨k, t, hrun, hpt, hbusy, hdone, ?_⟩
  cases p with
  | issue _ => cases hmacro
  | wait => cases hmacro
  | fmul a b =>
    cases hcommand
    obtain ⟨hres, herr, hcnt⟩ := coreOnly_of_setRes hexec
    refine ⟨hres.trans ?_, herr, hcnt⟩
    rw [← extractLsb'_setWidth_nibble a, ← extractLsb'_setWidth_nibble b]
    rfl
  | finv a =>
    cases hcommand
    exact (finv_result hexec (extractLsb'_setWidth_nibble a) :)
  | padd a b => cases hcommand; exact (coreOnly_of_setRes hexec :)
  | pdbl a => cases hcommand; exact (coreOnly_of_setRes hexec :)
  | smulh a d =>
    cases hcommand
    obtain ⟨hres, herr, hcnt⟩ := coreOnly_of_setRes hexec
    exact ⟨hres.trans (smulH2l_eq_multiple _ d), herr, hcnt⟩
  | smull a d =>
    cases hcommand
    obtain ⟨hres, herr, hcnt⟩ := coreOnly_of_setRes hexec
    exact ⟨hres.trans (smulL2h_eq_multiple _ d), herr, hcnt⟩
  | order g m n => cases hcommand; exact (order_result hexec :)

/-- Settles O16: the placed word is the next turn's, and placing it leaves what the turn then undoes. -/
theorem placedWordIsTheNextInstruction : Obligations.PlacedWordIsTheNextInstruction := by
  unfold Obligations.PlacedWordIsTheNextInstruction
  refine ⟨fun s w hw => ?_, fun s w hw => ?_⟩
  · rw [withFetchWord_of_frameBits s (frameBits_record hw), step_placed_record, BitVec.toNat_ofNat, Nat.mod_eq_of_lt hw]
  · rw [withFetchWord_of_frameBits s (frameBits_command hw), step_placed_command]
    rfl

/-- Settles O56: each line of an expansion is a packed record. -/
theorem macroExpansions : Obligations.MacroExpansions := by
  unfold Obligations.MacroExpansions
  intro a b n
  refine ⟨rfl, ?_⟩
  simp only [Pseudo.expand, issueAction, wrAction_eq_ofNat]
  exact ⟨rfl, rfl, rfl, rfl, rfl, rfl, rfl, rfl, rfl, rfl, rfl, rfl, rfl, rfl⟩

end Sys2Proof.Machine
end

section
/-! PROOFS. Issue, completion and the step (40_command.md): what the port transactions store and return, what a CMD
write does while idle and while busy, that a completion is a function of the latches, and which instruction a step runs. -/

namespace Sys2Proof.Machine

/-! ## Transactions (R92, R93, R94, R97) -/

/-- The fields of STATUS at their bit positions; bits [15:6] read 0 (R23, R93). -/
theorem Status.word_toNat (st : Status) :
    st.word.toNat = st.busy.toNat + 2 * st.done.toNat + 4 * st.err.toNat + 32 * st.isgen.toNat := by
  obtain ⟨b, d, e, g⟩ := st
  revert b d e g
  decide

theorem exec_wr_cmd_of_idle {s : State} (v : Word) (h : s.status.busy = false) :
    exec (.wr .cmd v) s = .next (s.issue v) := by
  rw [exec_wr, State.portWrite_cmd, State.writeCmd_of_idle v h]

theorem exec_wr_cmd_of_busy {s : State} (v : Word) (h : s.status.busy = true) : exec (.wr .cmd v) s = .next s := by
  rw [exec_wr, State.portWrite_cmd, State.writeCmd_of_busy v h]

/-! ## Completion (R98, R101, R102) -/

theorem exec_illegal (rsv : BitVec 12) (op : BitVec 4) (s : State) :
    exec (.illegal rsv op) s = .next (s.finish errIllegalCmd) := rfl

theorem ne_order_of_writesRes {i : Instr} (h : writesRes i = true) : i ≠ .order := by
  rintro rfl
  cases h

theorem Completion.keeps_res {i : Instr} {s t : State} (h : Completion s i t) (hi : writesRes i = false) :
    t.res = s.res := by
  cases h with
  | result v hw _ => exact absurd hw (Bool.eq_false_iff.1 hi)
  | noInverse _ => cases hi
  | orderFound _ _ | orderNotFound _ | illegal _ _ => rfl

theorem Completion.keeps_order {i : Instr} {s t : State} (h : Completion s i t) (hi : i ≠ .order) :
    t.cnt = s.cnt ∧ t.status.isgen = s.status.isgen := by
  cases h with
  | result _ _ _ | noInverse _ | illegal _ _ => exact ⟨rfl, rfl⟩
  | orderFound _ _ | orderNotFound _ => exact absurd rfl hi

/-- The operand latches of two states agree (R31). -/
structure State.SameOperands (s s' : State) : Prop where
  latA : s'.latA = s.latA
  latB : s'.latB = s.latB
  latK : s'.latK = s.latK
  latN : s'.latN = s.latN

/-- Two states with the same operand latches complete a command with the same writes: a value to RES, an order to CNT
and ISGEN, or neither, each with one error code (R101, R102). -/
theorem exec_of_sameOperands {i : Instr} {s s' : State} (hi : isCommand i = true) (h : s.SameOperands s') :
    (writesRes i = true ∧ ∃ v code, exec i s = .next ((s.setRes v).finish code) ∧
      exec i s' = .next ((s'.setRes v).finish code)) ∨
    (i = .order ∧ ∃ n g code, exec i s = .next ((s.setOrder n g).finish code) ∧
      exec i s' = .next ((s'.setOrder n g).finish code)) ∨
    (writesRes i = false ∧ i ≠ .order ∧ ∃ code, exec i s = .next (s.finish code) ∧
      exec i s' = .next (s'.finish code)) := by
  obtain ⟨hA, hB, hK, hN⟩ := h
  cases i with
  | fmul => exact .inl ⟨rfl, _, _, rfl, by simp [exec, execFmul, hA, hB]⟩
  | finv =>
    cases hinv : gfInv s.eltA with
    | none => exact .inl ⟨rfl, _, _, exec_finv_of_zero hinv, exec_finv_of_zero (by simpa [hA] using hinv)⟩
    | some r => exact .inl ⟨rfl, _, _, exec_finv_of_some hinv, exec_finv_of_some (by simpa [hA] using hinv)⟩
  | padd => exact .inl ⟨rfl, _, _, rfl, by simp [exec, execPadd, hA, hB]⟩
  | pdbl => exact .inl ⟨rfl, _, _, rfl, by simp [exec, execPdbl, hA]⟩
  | smulh => exact .inl ⟨rfl, _, _, rfl, by simp [exec, execSmulh, hA, hK]⟩
  | smull => exact .inl ⟨rfl, _, _, rfl, by simp [exec, execSmull, hA, hK]⟩
  | order =>
    cases hord : orderOf s.pointA s.bound with
    | none =>
      exact .inr (.inl ⟨rfl, _, _, _, exec_order_of_none hord, exec_order_of_none (by simpa [hA, hK] using hord)⟩)
    | some n =>
      have hord' : exec .order s' = _ := exec_order_of_some (n := n) (by simpa [hA, hK] using hord)
      exact .inr (.inl ⟨rfl, _, _, _, exec_order_of_some hord, by simpa [hN] using hord'⟩)
  | illegal rsv op => exact .inr (.inr ⟨rfl, by simp, _, exec_illegal rsv op s, exec_illegal rsv op s'⟩)
  | wr r v => cases hi
  | rd r => cases hi

/-! ## The moment of COMPLETE (R96, R218) -/

/-- The host moves when a command in flight is not due yet. -/
theorem State.completes_of_not_due {s : State} {a : HostAction} {rest : List HostAction}
    (h : s.status.busy = true → s.due ≠ 0) (hp : s.pending = a :: rest) : s.completes = false := by
  rw [← Bool.not_eq_true, State.completes_iff]
  rintro ⟨hbusy, hdue | hnil⟩
  · exact h hbusy hdue
  · simp [hp] at hnil

/-! ## The obligations -/

/-- Settles O17: a step executes an instruction, and each has a next state, or takes a state as it is. -/
theorem everyStepHasANextState : Obligations.EveryStepHasANextState := by
  unfold Obligations.EveryStepHasANextState
  exact step_eq_next

/-- Settles O27: a completion keeps what its command does not own, and two states that differ in ERR only have the same
operand latches, so they complete with the same code. -/
theorem resultRegistersHaveOwners : Obligations.ResultRegistersHaveOwners := by
  unfold Obligations.ResultRegistersHaveOwners
  intro i s t hi ht
  have hcompl := completion_of_exec hi ht
  refine ⟨hcompl.keeps_res, hcompl.keeps_order, fun u v hs hu => ?_⟩
  have hsame : s.SameOperands v := by
    rw [hs]
    exact ⟨rfl, rfl, rfl, rfl⟩
  obtain ⟨-, w, code, hes, hev⟩ | ⟨-, n, g, code, hes, hev⟩ | ⟨-, -, code, hes, hev⟩ :=
    exec_of_sameOperands hi hsame
  all_goals
    cases hes.symm.trans ht
    cases hev.symm.trans hu
    rfl

/-- Settles O30: the three kinds of writes a completion makes. -/
theorem completionReadsOnlyTheLatches : Obligations.CompletionReadsOnlyTheLatches := by
  unfold Obligations.CompletionReadsOnlyTheLatches
  intro s s' hcmd hA hB hK hN
  rw [hcmd]
  obtain ⟨hres, v, code, hs, hs'⟩ | ⟨hi, n, g, code, hs, hs'⟩ | ⟨hres, hne, code, hs, hs'⟩ :=
    exec_of_sameOperands (isCommand_decodeCommand s.latCmd) ⟨hA, hB, hK, hN⟩ <;>
    refine ⟨_, _, hs, hs', rfl, ?_⟩
  · rw [if_pos hres, if_neg (ne_order_of_writesRes hres)]
    exact ⟨rfl, rfl, rfl, rfl, rfl⟩
  · rw [hi, if_pos rfl]
    exact ⟨⟨rfl, rfl⟩, rfl, rfl⟩
  · rw [hres, if_neg hne]
    exact ⟨⟨rfl, rfl⟩, rfl, rfl, rfl, rfl⟩

/-- Settles O5: a byte keeps its value when zero-extended, and STATUS is read by its fields. -/
theorem readReturnsTheRegister : Obligations.ReadReturnsTheRegister := by
  unfold Obligations.ReadReturnsTheRegister
  intro s r
  refine ⟨s.portRead r, _, exec_rd r s, rfl, ?_⟩
  cases r with
  | status => exact s.status.word_toNat
  | opa | opb | res => exact BitVec.toNat_setWidth_of_le (by decide)
  | cmd | opk | opn | cnt => rfl

/-- Settles O6: register by register. -/
theorem writeStoresOnlyItsRegister : Obligations.WriteStoresOnlyItsRegister := by
  unfold Obligations.WriteStoresOnlyItsRegister
  intro s r v
  refine ⟨_, exec_wr r v s, ?_⟩
  cases r with
  | cmd =>
    cases h : s.status.busy with
    | false => exact State.writeCmd_of_idle v h
    | true => exact State.writeCmd_of_busy v h
  | opa | opb => exact ⟨BitVec.toNat_setWidth 8 v, rfl⟩
  | status | opk | opn | res | cnt => rfl

/-- Settles O7: the fields of the issued state. -/
theorem issueLatchesTheOperands : Obligations.IssueLatchesTheOperands := by
  unfold Obligations.IssueLatchesTheOperands
  intro s v hidle
  exact ⟨s.issue v, exec_wr_cmd_of_idle v hidle, by simp [errNone]⟩

/-- Settles O8. -/
theorem busyCmdWriteChangesNothing : Obligations.BusyCmdWriteChangesNothing := by
  unfold Obligations.BusyCmdWriteChangesNothing
  exact fun s v hbusy => exec_wr_cmd_of_busy v hbusy

/-- Settles O15: one clause per kind of turn. -/
theorem stepRunsTheDecodedInstruction : Obligations.StepRunsTheDecodedInstruction := by
  unfold Obligations.StepRunsTheDecodedInstruction
  refine ⟨fun s hbusy hdue => ?_, fun s r rest hwait hp => ?_, fun s rest hwait hp => ?_, fun s rest hwait hp => ?_,
    fun s hidle hp => ?_⟩
  · exact step_of_run (State.turn_of_completes (s.completes_iff.2 ⟨hbusy, hdue⟩))
  · rw [← State.hostTurn_noteCmdWrite]
    exact step_of_run (State.turn_of_htx (State.completes_of_not_due hwait hp) hp)
  · exact step_of_run (State.turn_of_waitBusy (State.completes_of_not_due hwait hp) hp)
  · exact step_of_run (State.turn_of_waitDone (State.completes_of_not_due hwait hp) hp)
  · exact step_of_stay (State.turn_of_nil (State.completes_of_idle hidle) hp)

/-- Settles O19: a word that is not legal decodes to `illegal`, whose completion is `State.finish` alone. -/
theorem illegalWordReportsAndComputesNothing : Obligations.IllegalWordReportsAndComputesNothing := by
  unfold Obligations.IllegalWordReportsAndComputesNothing
  refine ⟨fun w hw s => ?_, exec_illegal, ?_⟩
  · rw [decodeCommand_of_not_legal hw]
    exact exec_illegal _ _ s
  · exact ⟨_, _, exec_wr_cmd_of_idle 0x0000#16 rfl, exec_illegal _ _ _, rfl, rfl, rfl⟩

end Sys2Proof.Machine
end

section
/-! PROOFS. The field of 16 elements (41_field.md). The multiplier is multiplication in GF(2)[x] modulo x^4 + x + 1, and
an element is determined by its residue, so its laws (R112) are those of a commutative ring. From them an inverse is
unique, and the ROM's inverses lead back (R114, R116). -/

namespace Sys2Proof.Machine

open Polynomial

/-! ## Elements as residues modulo x^4 + x + 1 (R9) -/

theorem coeff_bitPoly_eq_one_iff {w : Nat} (v : BitVec w) (n : Nat) :
    (bitPoly v).coeff n = 1 ↔ v.getLsbD n = true := by
  simp [coeff_bitPoly]

theorem bitPoly_injective {w : Nat} : Function.Injective (bitPoly (w := w)) := by
  intro u v h
  apply BitVec.eq_of_getLsbD_eq
  intro i _
  rw [Bool.eq_iff_iff, ← coeff_bitPoly_eq_one_iff, ← coeff_bitPoly_eq_one_iff, h]

theorem degree_bitPoly_lt {w : Nat} (v : BitVec w) : (bitPoly v).degree < w := by
  rw [degree_lt_iff_coeff_zero]
  intro n hn
  rw [coeff_bitPoly, BitVec.getLsbD_of_ge v n hn, if_neg Bool.false_ne_true]

theorem degree_modulusPoly : modulusPoly.degree = 4 := by
  rw [modulusPoly]
  compute_degree!

theorem bitPoly_one : bitPoly 1#4 = 1 := by
  simp [bitPoly]

/-- A field element as a residue of GF(2)[x] modulo x^4 + x + 1. -/
noncomputable def residue (a : Elt) : AdjoinRoot modulusPoly := AdjoinRoot.mk modulusPoly (bitPoly a)

/-- Two elements differ by a polynomial of degree below 4, of which the modulus divides only 0. -/
theorem residue_injective : Function.Injective residue := by
  intro a b h
  have hdvd : modulusPoly ∣ bitPoly a - bitPoly b := AdjoinRoot.mk_eq_mk.1 h
  have hlt : (bitPoly a - bitPoly b).degree < modulusPoly.degree := by
    rw [degree_modulusPoly]
    exact (degree_sub_le _ _).trans_lt (max_lt (degree_bitPoly_lt a) (degree_bitPoly_lt b))
  exact bitPoly_injective (sub_eq_zero.1 (eq_zero_of_dvd_of_degree_lt hdvd hlt))

@[simp] theorem residue_gfMul (a b : Elt) : residue (gfMul a b) = residue a * residue b := by
  rw [residue, residue, residue, ← map_mul]
  exact AdjoinRoot.mk_eq_mk.2 (multiplierIsPolynomialProduct a b)

@[simp] theorem residue_xor (a b : Elt) : residue (a ^^^ b) = residue a + residue b := by
  rw [residue, bitPoly_xor, map_add, residue, residue]

@[simp] theorem residue_zero : residue 0#4 = 0 := by
  rw [residue, bitPoly_zero, map_zero]

@[simp] theorem residue_one : residue 1#4 = 1 := by
  rw [residue, bitPoly_one, map_one]

/-! ## The laws of the multiplier (R112) -/

theorem gfMul_comm (a b : Elt) : gfMul a b = gfMul b a :=
  residue_injective (by simp [mul_comm])

theorem gfMul_assoc (a b c : Elt) : gfMul (gfMul a b) c = gfMul a (gfMul b c) :=
  residue_injective (by simp [mul_assoc])

theorem gfMul_xor (a b c : Elt) : gfMul a (b ^^^ c) = gfMul a b ^^^ gfMul a c :=
  residue_injective (by simp [mul_add])

@[simp] theorem gfMul_one (a : Elt) : gfMul a 1#4 = a :=
  residue_injective (by simp)

@[simp] theorem gfMul_zero (a : Elt) : gfMul a 0#4 = 0#4 :=
  residue_injective (by simp)

@[simp] theorem one_gfMul (a : Elt) : gfMul 1#4 a = a := by
  rw [gfMul_comm, gfMul_one]

@[simp] theorem zero_gfMul (a : Elt) : gfMul 0#4 a = 0#4 := by
  rw [gfMul_comm, gfMul_zero]

/-! ## Inverses (R114, R116) -/

theorem eq_of_gfMul_eq_one {a b c : Elt} (hb : gfMul a b = 1#4) (hc : gfMul a c = 1#4) : c = b :=
  calc c = gfMul (gfMul a b) c := by rw [hb, one_gfMul]
    _ = gfMul b (gfMul a c) := by rw [gfMul_comm a b, gfMul_assoc]
    _ = b := by rw [hc, gfMul_one]

theorem ne_zero_of_gfMul_eq_one {a b : Elt} (h : gfMul a b = 1#4) : b ≠ 0#4 := by
  rintro rfl
  rw [gfMul_zero] at h
  exact absurd h (by decide)

/-- The inverse is the only factor that gives 1, whichever factor the ROM is asked for. -/
theorem gfInv_eq_of_gfMul_eq_one {a b : Elt} (h : gfMul a b = 1#4) : gfInv b = some a := by
  have hb := ne_zero_of_gfMul_eq_one h
  rw [gfInv_of_ne_zero hb, eq_of_gfMul_eq_one ((gfMul_comm b a).trans h) (gfMul_romValue b hb)]

theorem modulusPoly_dvd_of_gfMul_eq_one {a b : Elt} (h : gfMul a b = 1#4) :
    modulusPoly ∣ eltPoly a * eltPoly b - 1 := by
  rw [dvd_sub_comm, ← bitPoly_one, ← eltPoly_eq_bitPoly, ← h]
  exact multiplierIsPolynomialProduct a b

/-! ## The operands and results of FMUL and FINV (R73, R110, R113) -/

theorem State.eltA_eq_setWidth (s : State) : s.eltA = s.latA.setWidth 4 :=
  (BitVec.setWidth_eq_extractLsb' (by decide)).symm

theorem State.eltB_eq_setWidth (s : State) : s.eltB = s.latB.setWidth 4 :=
  (BitVec.setWidth_eq_extractLsb' (by decide)).symm

theorem setWidth_four_eq_zero_iff {w : Nat} (v : BitVec w) : v.setWidth 4 = 0#4 ↔ v.toNat % 16 = 0 := by
  rw [← BitVec.toNat_inj, BitVec.toNat_setWidth]
  rfl

/-- The ROM's table (R33). -/
theorem romValue_toNat_eq_getD : ∀ a : Elt, a ≠ 0#4 →
    (romValue a).toNat = [0, 1, 9, 14, 13, 11, 7, 6, 15, 2, 12, 5, 10, 4, 3, 8].getD a.toNat 16 := by decide

/-! ## The obligations -/

/-- Settles O34: the ROM's value is an inverse, and the laws of the multiplier make it the only one. -/
theorem inverseRomHoldsTheInverses : Obligations.InverseRomHoldsTheInverses := by
  unfold Obligations.InverseRomHoldsTheInverses
  refine ⟨gfInv_zero, gfInv_eq_of_gfMul_eq_one (gfMul_one 1#4), fun a ha => ?_⟩
  have hmul := gfMul_romValue a ha
  have hpos := Nat.pos_of_ne_zero (BitVec.toNat_ne_iff_ne.2 (ne_zero_of_gfMul_eq_one hmul))
  exact ⟨romValue a, gfInv_of_ne_zero ha, hpos, hmul, gfInv_eq_of_gfMul_eq_one hmul,
    fun _ => eq_of_gfMul_eq_one hmul, modulusPoly_dvd_of_gfMul_eq_one hmul⟩

/-- Settles O20: the low nibbles are the operands, and the corner cases are laws of the multiplier. -/
theorem fmulWritesTheProduct : Obligations.FmulWritesTheProduct := by
  unfold Obligations.FmulWritesTheProduct
  refine ⟨rfl, fun s => ?_, fun a => ⟨gfMul_zero a, zero_gfMul a, gfMul_one a, one_gfMul a⟩, by decide⟩
  rw [← s.eltA_eq_setWidth, ← s.eltB_eq_setWidth]
  rfl

/-- Settles O21: the operand 0 apart. -/
theorem finvWritesTheInverse : Obligations.FinvWritesTheInverse := by
  unfold Obligations.FinvWritesTheInverse
  refine ⟨rfl, fun s => ?_⟩
  by_cases hzero : s.latA.setWidth 4 = 0#4
  · have hmod := (setWidth_four_eq_zero_iff s.latA).1 hzero
    refine ⟨0x00#8, ?_, by simp [hmod], fun h => absurd hmod h⟩
    rw [exec_finv_of_zero (by rw [s.eltA_eq_setWidth, hzero, gfInv_zero]), if_pos hmod]
    rfl
  · have hmod := mt (setWidth_four_eq_zero_iff s.latA).2 hzero
    refine ⟨eltResult (romValue (s.latA.setWidth 4)), ?_, ?_, fun _ => ?_⟩
    · rw [exec_finv_of_some (by rw [s.eltA_eq_setWidth, gfInv_of_ne_zero hzero]), if_neg hmod]
      rfl
    · rw [eltResult, BitVec.toNat_setWidth_of_le (by decide), romValue_toNat_eq_getD _ hzero, BitVec.toNat_setWidth]
    · rw [setWidth_eltResult, gfMul_romValue _ hzero]

/-- Settles O33: each law is that of the residues modulo x^4 + x + 1. -/
theorem multiplierLaws : Obligations.MultiplierLaws := by
  unfold Obligations.MultiplierLaws
  exact fun a b c => ⟨gfMul_comm a b, gfMul_assoc a b c, gfMul_xor a b c, gfMul_one a, gfMul_zero a⟩

end Sys2Proof.Machine
end

section
/-! PROOFS. The point adder and the point doubler on every byte, on a curve or not (42_curve.md). The adder's five cases
(R132) are said once. The slope is the one solution of its equation, so that the chord and the tangent need no inverse,
and the laws of every byte (R137) follow from those of the multiplier. -/

namespace Sys2Proof.Machine

/-! ## Division by a nonzero element (R112, R114) -/

theorem gfMul_gfMul_romValue {a : Elt} (ha : a ≠ 0#4) (b : Elt) : gfMul a (gfMul b (romValue a)) = b := by
  rw [gfMul_comm b, ← gfMul_assoc, gfMul_romValue a ha, one_gfMul]

theorem gfMul_left_cancel {a b c : Elt} (ha : a ≠ 0#4) (h : gfMul a b = gfMul a c) : b = c :=
  calc b = gfMul a (gfMul b (romValue a)) := (gfMul_gfMul_romValue ha b).symm
    _ = gfMul a (gfMul c (romValue a)) := by rw [← gfMul_assoc, h, gfMul_assoc]
    _ = c := gfMul_gfMul_romValue ha c

theorem ne_xor_right {a : Elt} (ha : a ≠ 0#4) (b : Elt) : b ≠ a ^^^ b := fun h => ha (by simpa using h.symm)

/-- The residues have characteristic 2, because a sum is an XOR (R9). -/
theorem two_eq_zero_residue : (2 : AdjoinRoot modulusPoly) = 0 := by
  have hsum : residue (1#4 ^^^ 1#4) = residue 1#4 + residue 1#4 := residue_xor 1#4 1#4
  rwa [BitVec.xor_self, residue_zero, residue_one, one_add_one_eq_two, eq_comm] at hsum

/-! ## The third point of a line (R132, R133) -/

/-- The sum R132 forms from two points and the slope of the line through them. -/
def thirdPoint (p q : Point) (lam : Elt) : Point :=
  let x3 := gfMul lam lam ^^^ lam ^^^ ptX p ^^^ ptX q ^^^ Config.curveA
  mkpt x3 (gfMul lam (ptX p ^^^ x3) ^^^ x3 ^^^ ptY p)

/-- Either point of a chord gives the same sum. -/
theorem thirdPoint_comm {p q : Point} {lam : Elt} (h : gfMul (ptX p ^^^ ptX q) lam = ptY p ^^^ ptY q) :
    thirdPoint p q lam = thirdPoint q p lam := by
  have hslope := congrArg residue h
  simp only [residue_gfMul, residue_xor] at hslope
  have hx3 : gfMul lam lam ^^^ lam ^^^ ptX p ^^^ ptX q = gfMul lam lam ^^^ lam ^^^ ptX q ^^^ ptX p := by ac_rfl
  rw [thirdPoint, thirdPoint, hx3]
  refine congrArg _ (residue_injective ?_)
  simp only [residue_gfMul, residue_xor]
  linear_combination hslope + (residue (ptY p) - residue lam * residue (ptX q)) * two_eq_zero_residue

/-- The doubler's formulas (R133) are those of the adder for a tangent. -/
theorem thirdPoint_self {p : Point} {lam : Elt} (h : gfMul (ptX p) lam = gfMul (ptX p) (ptX p) ^^^ ptY p) :
    thirdPoint p p lam =
      (let x3 := gfMul lam lam ^^^ lam ^^^ Config.curveA
       mkpt x3 (gfMul (ptX p) (ptX p) ^^^ gfMul lam x3 ^^^ x3)) := by
  have hslope := congrArg residue h
  simp only [residue_gfMul, residue_xor] at hslope
  rw [thirdPoint, BitVec.xor_assoc _ (ptX p) (ptX p), BitVec.xor_self, BitVec.xor_zero]
  refine congrArg _ (residue_injective ?_)
  simp only [residue_gfMul, residue_xor]
  linear_combination hslope + residue (ptY p) * two_eq_zero_residue

/-! ## The doubler (R133) -/

/-- The tangent, for the slope given by its equation. -/
theorem ptDbl_of_slope {p : Point} {lam : Elt} (hx : ptX p ≠ 0#4)
    (h : gfMul (ptX p) lam = gfMul (ptX p) (ptX p) ^^^ ptY p) : ptDbl p = thirdPoint p p lam := by
  have hlam : ptX p ^^^ gfMul (ptY p) (romValue (ptX p)) = lam :=
    gfMul_left_cancel hx (by rw [h, gfMul_xor, gfMul_gfMul_romValue hx])
  rw [thirdPoint_self h, ptDbl, ptDblWith, if_neg hx, hlam]

theorem ptDbl_of_x_zero {p : Point} (h : ptX p = 0#4) : ptDbl p = inf := ptDblWith_of_x_zero romValue h

/-- The doubler reads the ROM at the nonzero x only (R136). -/
theorem ptDblWith_congr {inv : Elt → Elt} (hinv : ∀ a, a ≠ 0#4 → inv a = romValue a) (p : Point) :
    ptDblWith inv p = ptDbl p := by
  by_cases hx : ptX p = 0#4
  · rw [ptDblWith_of_x_zero inv hx, ptDbl_of_x_zero hx]
  · rw [ptDbl, ptDblWith, ptDblWith, hinv _ hx]

/-! ## The adder (R132) -/

/-- The cases of `pt_add`, with what each has found out. -/
inductive AdderCase : Point → Point → Prop where
  | infLeft (q : Point) : AdderCase inf q
  | infRight (p : Point) : AdderCase p inf
  | same {p : Point} (hp : p ≠ inf) : AdderCase p p
  | vertical {p q : Point} (hp : p ≠ inf) (hq : q ≠ inf) (hx : ptX p = ptX q) (hy : ptY p ≠ ptY q) : AdderCase p q
  | chord {p q : Point} (hp : p ≠ inf) (hq : q ≠ inf) (hx : ptX p ≠ ptX q) : AdderCase p q

theorem eq_of_ptX_ptY {p q : Point} (hx : ptX p = ptX q) (hy : ptY p = ptY q) : p = q := by
  rw [← mkpt_ptX_ptY p, hx, hy, mkpt_ptX_ptY]

theorem adderCase (p q : Point) : AdderCase p q := by
  by_cases hp : p = inf
  · exact hp ▸ .infLeft q
  by_cases hq : q = inf
  · exact hq ▸ .infRight p
  by_cases hx : ptX p = ptX q
  · by_cases hy : ptY p = ptY q
    · exact eq_of_ptX_ptY hx hy ▸ .same hp
    · exact .vertical hp hq hx hy
  · exact .chord hp hq hx

@[simp] theorem ptAdd_inf_left (q : Point) : ptAdd inf q = q := ptAddWith_inf_left romValue q

theorem ptAddWith_inf_right' (inv : Elt → Elt) (p : Point) : ptAddWith inv p inf = p := by
  by_cases hp : p = inf
  · rw [hp, ptAddWith_inf_left]
  · exact ptAddWith_inf_right inv hp

@[simp] theorem ptAdd_inf_right (p : Point) : ptAdd p inf = p := ptAddWith_inf_right' romValue p

theorem ptAdd_of_same_x {p q : Point} (hp : p ≠ inf) (hq : q ≠ inf) (hx : ptX p = ptX q) (hy : ptY p ≠ ptY q) :
    ptAdd p q = inf := ptAddWith_of_same_x romValue hp hq hx hy

theorem ptAddWith_of_ne_x (inv : Elt → Elt) {p q : Point} (hp : p ≠ inf) (hq : q ≠ inf) (hx : ptX p ≠ ptX q) :
    ptAddWith inv p q = thirdPoint p q (gfMul (ptY p ^^^ ptY q) (inv (ptX p ^^^ ptX q))) := by
  simp [ptAddWith, thirdPoint, (isInf_false_iff p).2 hp, (isInf_false_iff q).2 hq, hx]

/-- The chord, for the slope given by its equation. -/
theorem ptAdd_of_slope {p q : Point} {lam : Elt} (hp : p ≠ inf) (hq : q ≠ inf) (hx : ptX p ≠ ptX q)
    (h : gfMul (ptX p ^^^ ptX q) lam = ptY p ^^^ ptY q) : ptAdd p q = thirdPoint p q lam := by
  have hdx := elt_xor_ne_zero _ _ hx
  rw [ptAdd, ptAddWith_of_ne_x romValue hp hq hx,
    gfMul_left_cancel hdx ((gfMul_gfMul_romValue hdx _).trans h.symm)]

/-- The adder reads the ROM at the nonzero difference of two x only (R136). -/
theorem ptAddWith_congr {inv : Elt → Elt} (hinv : ∀ a, a ≠ 0#4 → inv a = romValue a) (p q : Point) :
    ptAddWith inv p q = ptAdd p q := by
  cases adderCase p q with
  | infLeft => rw [ptAddWith_inf_left, ptAdd_inf_left]
  | infRight => rw [ptAddWith_inf_right', ptAdd_inf_right]
  | same hp => rw [ptAddWith_self inv hp, ptDblWith_congr hinv, ptDbl_eq_ptAdd]
  | vertical hp hq hx hy => rw [ptAddWith_of_same_x inv hp hq hx hy, ptAdd_of_same_x hp hq hx hy]
  | chord hp hq hx =>
    rw [ptAdd, ptAddWith_of_ne_x inv hp hq hx, ptAddWith_of_ne_x romValue hp hq hx, hinv _ (elt_xor_ne_zero _ _ hx)]

theorem ptAdd_comm (p q : Point) : ptAdd p q = ptAdd q p := by
  cases adderCase p q with
  | infLeft => rw [ptAdd_inf_left, ptAdd_inf_right]
  | infRight => rw [ptAdd_inf_left, ptAdd_inf_right]
  | same => rfl
  | vertical hp hq hx hy => rw [ptAdd_of_same_x hp hq hx hy, ptAdd_of_same_x hq hp hx.symm hy.symm]
  | chord hp hq hx =>
    have hslope := gfMul_gfMul_romValue (elt_xor_ne_zero _ _ hx) (ptY p ^^^ ptY q)
    rw [ptAdd_of_slope hp hq hx hslope, thirdPoint_comm hslope]
    rw [BitVec.xor_comm (ptX p), BitVec.xor_comm (ptY p)] at hslope ⊢
    exact (ptAdd_of_slope hq hp hx.symm hslope).symm

/-- The point `(x, x ^ y)` (R137). -/
def ptNeg (p : Point) : Point := mkpt (ptX p) (ptX p ^^^ ptY p)

/-- The negation of a point with x = 0 is the point itself, which doubles to INF; else the two differ in y only. -/
theorem ptAdd_ptNeg (p : Point) : ptAdd p (ptNeg p) = inf := by
  by_cases hx : ptX p = 0#4
  · have hneg : ptNeg p = p := by rw [ptNeg, hx, BitVec.zero_xor, ← hx, mkpt_ptX_ptY]
    rw [hneg, ← ptDbl_eq_ptAdd, ptDbl_of_x_zero hx]
  · have hne {q : Point} (h : ptX q = ptX p) : q ≠ inf := fun hq => hx (h ▸ hq ▸ rfl)
    refine ptAdd_of_same_x (hne rfl) (hne (ptX_mkpt _ _)) (ptX_mkpt _ _).symm ?_
    rw [ptNeg, ptY_mkpt]
    exact ne_xor_right hx _


/-- NO_INVERSE comes from FINV only (R136, R191). -/
theorem Completion.err_ne_noInverse {i : Instr} {s t : State} (h : Completion s i t) (hi : i ≠ .finv) :
    t.status.err ≠ errNoInverse := by
  cases h with
  | noInverse => exact absurd rfl hi
  | result => exact show errNone ≠ errNoInverse by decide
  | orderFound => exact show errNone ≠ errNoInverse by decide
  | orderNotFound => exact show errOrderNotFound ≠ errNoInverse by decide
  | illegal => exact show errIllegalCmd ≠ errNoInverse by decide

/-! ## The obligations -/

/-- Settles O35: the slope is the only solution of its equation, and the doubler's formulas are the tangent's. -/
theorem doublerFollowsTheTangentRule : Obligations.DoublerFollowsTheTangentRule := by
  unfold Obligations.DoublerFollowsTheTangentRule
  refine ⟨fun y => ptDbl_of_x_zero (ptX_mkpt 0#4 y), fun x y lam hx h => ?_⟩
  have hdbl := ptDbl_of_slope (p := mkpt x y) (lam := lam)
  have hthird := thirdPoint_self (p := mkpt x y) (lam := lam)
  rw [ptX_mkpt, ptY_mkpt] at hdbl hthird
  rw [hdbl hx h, hthird h, Config.curveA]

/-- Settles O36: the five cases of the adder. -/
theorem adderFollowsTheChordRule : Obligations.AdderFollowsTheChordRule := by
  unfold Obligations.AdderFollowsTheChordRule
  refine ⟨fun p => ⟨ptAdd_inf_left p, ptAdd_inf_right p, (ptDbl_eq_ptAdd p).symm⟩, fun x y y' hy hp hq => ?_,
    fun x1 y1 x2 y2 lam hp hq hx h => ?_⟩
  · exact ptAdd_of_same_x hp hq (by rw [ptX_mkpt, ptX_mkpt]) (by rwa [ptY_mkpt, ptY_mkpt])
  · have hadd := ptAdd_of_slope (lam := lam) hp hq
    simp only [ptX_mkpt, ptY_mkpt, thirdPoint, Config.curveA] at hadd
    exact hadd hx h

/-- Settles O37: the ROM is read at nonzero elements only, and of all completions only FINV's reports NO_INVERSE. -/
theorem inverseOfZeroIsNeverUsed : Obligations.InverseOfZeroIsNeverUsed := by
  unfold Obligations.InverseOfZeroIsNeverUsed
  refine ⟨fun inv hinv => ⟨ptDblWith_congr hinv, ptAddWith_congr hinv⟩, fun i hi s => ?_⟩
  have hcurve : ∀ i ∈ [Instr.padd, .pdbl, .smulh, .smull, .order], isCommand i = true ∧ i ≠ .finv := by decide
  obtain ⟨hcmd, hfinv⟩ := hcurve i hi
  obtain ⟨t, ht, hc⟩ := exec_completion hcmd s
  exact ⟨t, ht, hc.err_ne_noInverse hfinv⟩

/-- Settles O38: each law by the adder's cases; for commutativity the line is the same from either end. -/
theorem pointLawsForEveryByte : Obligations.PointLawsForEveryByte := by
  unfold Obligations.PointLawsForEveryByte
  exact fun p q => ⟨ptAdd_inf_right p, ptAdd_inf_left p, (ptDbl_eq_ptAdd p).symm, ptAdd_ptNeg p, ptAdd_comm p q⟩

/-- Settles O22: the laws of every byte, and points with the same upper nibble have the same x. -/
theorem paddWritesTheSum : Obligations.PaddWritesTheSum := by
  unfold Obligations.PaddWritesTheSum
  refine ⟨rfl, fun s => rfl, fun p q => ⟨ptAdd_comm p q, (ptDbl_eq_ptAdd p).symm, ptAdd_inf_right p, ptAdd_ptNeg p,
    fun h hne hp hq => ?_⟩, by decide⟩
  have hx : ptX p = ptX q := BitVec.eq_of_toNat_eq (by rw [ptX_toNat, ptX_toNat, h])
  exact ptAdd_of_same_x hp hq hx fun hy => hne (eq_of_ptX_ptY hx hy)

/-- Settles O23: a byte below 16 has x = 0. -/
theorem pdblWritesTheDouble : Obligations.PdblWritesTheDouble := by
  unfold Obligations.PdblWritesTheDouble
  refine ⟨rfl, fun s => rfl, fun p hp => ?_, ptDbl_eq_ptAdd, by decide⟩
  have hx : ptX p = 0#4 := BitVec.eq_of_toNat_eq (by rw [ptX_toNat, Nat.div_eq_of_lt hp]; rfl)
  exact ptDbl_of_x_zero hx

end Sys2Proof.Machine
end

section
/-! PROOFS. The 16 curves as groups (R130, R138). A point of the curve with constant term b' represents a point of the
Weierstrass curve y² + xy = x³ + 8x² + b' over a field that contains the 16 elements, and the adder computes the sum in
Mathlib's group law of that curve. So each curve with INF is a commutative group because the library's curve is one. -/

namespace Sys2Proof.Machine

open WeierstrassCurve.Affine hiding Point

/-! ## The 16 elements in a field -/

/-- The modulus has a root in the algebraic closure. -/
theorem exists_residue_hom : Nonempty (AdjoinRoot modulusPoly →+* AlgebraicClosure (ZMod 2)) := by
  obtain ⟨α, hα⟩ := IsAlgClosed.exists_eval₂_eq_zero (algebraMap (ZMod 2) (AlgebraicClosure (ZMod 2))) modulusPoly
    (by rw [degree_modulusPoly]; decide)
  exact ⟨AdjoinRoot.lift _ α hα⟩

section Coordinates

variable {K : Type} [Field K] (φ : AdjoinRoot modulusPoly →+* K)

/-- A field element as an element of the field K. -/
noncomputable def coord (a : Elt) : K := φ (residue a)

@[simp] theorem coord_xor (a b : Elt) : coord φ (a ^^^ b) = coord φ a + coord φ b := by simp [coord]

@[simp] theorem coord_gfMul (a b : Elt) : coord φ (gfMul a b) = coord φ a * coord φ b := by simp [coord]

@[simp] theorem coord_zero : coord φ 0#4 = 0 := by simp [coord]

theorem coord_one : coord φ 1#4 = 1 := by simp [coord]

include φ in
theorem two_eq_zero : (2 : K) = 0 := by
  have hmap := congrArg φ two_eq_zero_residue
  rwa [map_ofNat, map_zero] at hmap

/-- A nonzero element has an inverse, so it is not 0 in the field. -/
theorem coord_ne_zero {a : Elt} (ha : a ≠ 0#4) : coord φ a ≠ 0 := by
  intro h
  have hone := congrArg (coord φ) (gfMul_romValue a ha)
  rw [coord_gfMul, h, zero_mul, coord_one] at hone
  exact zero_ne_one hone

theorem coord_injective : Function.Injective (coord φ) := by
  intro a b h
  by_contra hab
  refine coord_ne_zero φ (elt_xor_ne_zero a b hab) ?_
  rw [coord_xor, h]
  linear_combination coord φ b * two_eq_zero φ

@[simp] theorem coord_inj {a b : Elt} : coord φ a = coord φ b ↔ a = b := (coord_injective φ).eq_iff

theorem neg_coord (a : Elt) : -coord φ a = coord φ a := by
  linear_combination -coord φ a * two_eq_zero φ

/-! ## The curve with constant term b' -/

/-- The curve y² + xy = x³ + 8x² + b' over K. -/
noncomputable def curveOver (b : Elt) : WeierstrassCurve.Affine K :=
  { a₁ := 1, a₂ := coord φ Config.curveA, a₃ := 0, a₄ := 0, a₆ := coord φ b }

variable {φ} {b : Elt}

theorem equation_coord (p : Point) :
    (curveOver φ b).Equation (coord φ (ptX p)) (coord φ (ptY p)) ↔ curveTerm p = b := by
  have hterm : coord φ (curveTerm p) = coord φ (ptY p) ^ 2 + coord φ (ptX p) * coord φ (ptY p) -
      (coord φ (ptX p) ^ 3 + coord φ Config.curveA * coord φ (ptX p) ^ 2) := by
    simp only [curveTerm, coord_xor, coord_gfMul]
    linear_combination (coord φ (ptX p) ^ 3 + coord φ Config.curveA * coord φ (ptX p) ^ 2) * two_eq_zero φ
  rw [equation_iff, ← coord_inj φ, hterm, sub_eq_iff_eq_add']
  simp [curveOver]

theorem negY_coord (x y : Elt) : (curveOver φ b).negY (coord φ x) (coord φ y) = coord φ (x ^^^ y) := by
  simp only [negY, curveOver, neg_coord, coord_xor]
  linear_combination -coord φ x * two_eq_zero φ

/-- The only singular point is (0, 0), the byte of INF. -/
theorem nonsingular_coord {p : Point} (hp : p ≠ inf) (h : curveTerm p = b) :
    (curveOver φ b).Nonsingular (coord φ (ptX p)) (coord φ (ptY p)) := by
  refine (nonsingular_iff _ _).2 ⟨(equation_coord p).2 h, ?_⟩
  by_cases hx : ptX p = 0#4
  · have hy : ptY p ≠ 0#4 := fun hy => hp (eq_of_ptX_ptY hx hy)
    simpa [curveOver, hx] using .inl (coord_ne_zero φ hy)
  · refine .inr ?_
    rw [← negY, negY_coord, Ne, coord_inj]
    exact ne_xor_right hx _

/-! ## The lines of the adder and the doubler -/

section Line

variable {p q : Point} {lam : Elt}

theorem addX_coord : (curveOver φ b).addX (coord φ (ptX p)) (coord φ (ptX q)) (coord φ lam) =
    coord φ (ptX (thirdPoint p q lam)) := by
  simp only [thirdPoint, ptX_mkpt, coord_xor, coord_gfMul, addX, curveOver, sub_eq_add_neg, neg_coord]
  ring

theorem addY_coord : (curveOver φ b).addY (coord φ (ptX p)) (coord φ (ptX q)) (coord φ (ptY p)) (coord φ lam) =
    coord φ (ptY (thirdPoint p q lam)) := by
  have hline : (curveOver φ b).negAddY (coord φ (ptX p)) (coord φ (ptX q)) (coord φ (ptY p)) (coord φ lam) =
      coord φ (gfMul lam (ptX p ^^^ ptX (thirdPoint p q lam)) ^^^ ptY p) := by
    rw [negAddY, addX_coord]
    simp only [coord_xor, coord_gfMul, sub_eq_add_neg, neg_coord]
    ring
  rw [addY, addX_coord, hline, negY_coord, coord_inj]
  simp only [thirdPoint, ptX_mkpt, ptY_mkpt]
  ac_rfl

variable [DecidableEq K]

theorem slope_chord (hx : ptX p ≠ ptX q) (h : gfMul (ptX p ^^^ ptX q) lam = ptY p ^^^ ptY q) :
    (curveOver φ b).slope (coord φ (ptX p)) (coord φ (ptX q)) (coord φ (ptY p)) (coord φ (ptY q)) = coord φ lam := by
  have hx' : coord φ (ptX p) ≠ coord φ (ptX q) := mt (coord_inj φ).1 hx
  have hslope := congrArg (coord φ) h
  rw [slope_of_X_ne hx', div_eq_iff (sub_ne_zero.2 hx')]
  simp only [coord_xor, coord_gfMul, sub_eq_add_neg, neg_coord] at hslope ⊢
  linear_combination -hslope

theorem slope_tangent (hx : ptX p ≠ 0#4) (h : gfMul (ptX p) lam = gfMul (ptX p) (ptX p) ^^^ ptY p) :
    (curveOver φ b).slope (coord φ (ptX p)) (coord φ (ptX p)) (coord φ (ptY p)) (coord φ (ptY p)) = coord φ lam := by
  have hslope := congrArg (coord φ) h
  have hne : coord φ (ptY p) - (curveOver φ b).negY (coord φ (ptX p)) (coord φ (ptY p)) = coord φ (ptX p) := by
    rw [negY_coord, sub_eq_add_neg, neg_coord, ← coord_xor, coord_inj]
    simp
  rw [slope_of_Y_ne rfl fun hy => coord_ne_zero φ hx (by rw [← hne, ← hy, sub_self]), hne,
    div_eq_iff (coord_ne_zero φ hx)]
  simp only [curveOver, coord_xor, coord_gfMul] at hslope ⊢
  linear_combination -hslope +
    (coord φ (ptX p) ^ 2 + coord φ Config.curveA * coord φ (ptX p) - coord φ (ptY p)) * two_eq_zero φ

end Line

/-! ## The adder computes the group law -/

/-- A byte represents a point of the curve over K: INF the point at infinity, any other byte its two coordinates. -/
def Represents (p : Point) : (curveOver φ b).Point → Prop
  | .zero => p = inf
  | .some X Y _ => coord φ (ptX p) = X ∧ coord φ (ptY p) = Y

theorem Represents.unique {p q : Point} {P : (curveOver φ b).Point} (hp : Represents p P) (hq : Represents q P) :
    p = q := by
  cases P with
  | zero => exact hp.trans hq.symm
  | some X Y h =>
    obtain ⟨hpx, hpy⟩ := hp
    obtain ⟨hqx, hqy⟩ := hq
    exact eq_of_ptX_ptY (coord_injective φ (hpx.trans hqx.symm)) (coord_injective φ (hpy.trans hqy.symm))

theorem exists_represents_iff {p : Point} :
    (∃ P : (curveOver φ b).Point, Represents p P) ↔ p = inf ∨ curveTerm p = b := by
  constructor
  · rintro ⟨_ | ⟨_, _, h⟩, hp⟩
    · exact .inl hp
    · obtain ⟨rfl, rfl⟩ := hp
      exact .inr ((equation_coord p).1 h.1)
  · intro hp
    by_cases hinf : p = inf
    · exact ⟨.zero, hinf⟩
    · exact ⟨.some _ _ (nonsingular_coord hinf (hp.resolve_left hinf)), rfl, rfl⟩

theorem Represents.eq_zero {P : (curveOver φ b).Point} (h : Represents inf P) : P = 0 := by
  cases P with
  | zero => rfl
  | some X Y hns =>
    have hsing : ¬ (curveOver φ b).Nonsingular (coord φ 0#4) (coord φ 0#4) := by simp [curveOver]
    obtain ⟨rfl, rfl⟩ := h
    exact absurd hns hsing

theorem Represents.eq_some {p : Point} {P : (curveOver φ b).Point} (h : Represents p P) (hp : p ≠ inf) :
    ∃ hns, P = .some (coord φ (ptX p)) (coord φ (ptY p)) hns := by
  cases P with
  | zero => exact absurd h hp
  | some X Y hns =>
    obtain ⟨rfl, rfl⟩ := h
    exact ⟨hns, rfl⟩

theorem Represents.neg {p : Point} {P : (curveOver φ b).Point} (h : Represents p P) : Represents (ptNeg p) (-P) := by
  by_cases hp : p = inf
  · subst hp
    rw [h.eq_zero]
    exact (by decide : ptNeg inf = inf)
  · obtain ⟨hns, rfl⟩ := h.eq_some hp
    exact ⟨by rw [ptNeg, ptX_mkpt], by rw [ptNeg, ptY_mkpt, negY_coord]⟩

section Add

variable [DecidableEq K] {p q : Point} {P Q : (curveOver φ b).Point}

/-- Mathlib's sum of two points that are not inverse to each other is the third point of the adder's line. -/
theorem represents_thirdPoint {lam : Elt} {hp : (curveOver φ b).Nonsingular (coord φ (ptX p)) (coord φ (ptY p))}
    {hq : (curveOver φ b).Nonsingular (coord φ (ptX q)) (coord φ (ptY q))}
    (hne : ¬ (ptX p = ptX q ∧ ptY p = ptX q ^^^ ptY q))
    (hlam : (curveOver φ b).slope (coord φ (ptX p)) (coord φ (ptX q)) (coord φ (ptY p)) (coord φ (ptY q)) =
      coord φ lam) :
    Represents (thirdPoint p q lam) (.some _ _ hp + .some _ _ hq : (curveOver φ b).Point) := by
  rw [WeierstrassCurve.Affine.Point.add_some (by rwa [negY_coord, coord_inj, coord_inj])]
  exact ⟨by rw [hlam, addX_coord], by rw [hlam, addY_coord]⟩

/-- The adder computes the sum of the group law, case by case. -/
theorem Represents.add (hP : Represents p P) (hQ : Represents q Q) : Represents (ptAdd p q) (P + Q) := by
  cases adderCase p q with
  | infLeft => rwa [hP.eq_zero, zero_add, ptAdd_inf_left]
  | infRight => rwa [hQ.eq_zero, add_zero, ptAdd_inf_right]
  | same hp =>
    obtain ⟨hns, rfl⟩ := hP.eq_some hp
    obtain ⟨-, rfl⟩ := hQ.eq_some hp
    rw [← ptDbl_eq_ptAdd]
    by_cases hx : ptX p = 0#4
    · rw [ptDbl_of_x_zero hx, WeierstrassCurve.Affine.Point.add_self_of_Y_eq (by rw [negY_coord, hx, BitVec.zero_xor])]
      rfl
    · have hlam := gfMul_gfMul_romValue hx (gfMul (ptX p) (ptX p) ^^^ ptY p)
      rw [ptDbl_of_slope hx hlam]
      exact represents_thirdPoint (fun h => ne_xor_right hx _ h.2) (slope_tangent hx hlam)
  | vertical hp hq hx hy =>
    obtain ⟨hnsp, rfl⟩ := hP.eq_some hp
    obtain ⟨hnsq, rfl⟩ := hQ.eq_some hq
    have hx' := congrArg (coord φ) hx
    have hneg := (Y_eq_of_X_eq hnsp.1 hnsq.1 hx').resolve_left (mt (coord_inj φ).1 hy)
    rw [ptAdd_of_same_x hp hq hx hy, WeierstrassCurve.Affine.Point.add_of_Y_eq hx' hneg]
    rfl
  | chord hp hq hx =>
    obtain ⟨hnsp, rfl⟩ := hP.eq_some hp
    obtain ⟨hnsq, rfl⟩ := hQ.eq_some hq
    have hlam := gfMul_gfMul_romValue (elt_xor_ne_zero _ _ hx) (ptY p ^^^ ptY q)
    rw [ptAdd_of_slope hp hq hx hlam]
    exact represents_thirdPoint (fun h => hx h.1) (slope_chord hx hlam)

end Add

end Coordinates

/-! ## The groups of the 16 curves (R138) -/

section Curve

variable {b : Elt} {p q r : Point}

theorem ptAdd_closed (hp : p = inf ∨ curveTerm p = b) (hq : q = inf ∨ curveTerm q = b) :
    ptAdd p q = inf ∨ curveTerm (ptAdd p q) = b := by
  classical
  obtain ⟨φ⟩ := exists_residue_hom
  obtain ⟨P, hP⟩ := (exists_represents_iff (φ := φ)).2 hp
  obtain ⟨Q, hQ⟩ := (exists_represents_iff (φ := φ)).2 hq
  exact exists_represents_iff.1 ⟨P + Q, hP.add hQ⟩

theorem ptAdd_assoc (hp : p = inf ∨ curveTerm p = b) (hq : q = inf ∨ curveTerm q = b)
    (hr : r = inf ∨ curveTerm r = b) : ptAdd (ptAdd p q) r = ptAdd p (ptAdd q r) := by
  classical
  obtain ⟨φ⟩ := exists_residue_hom
  obtain ⟨P, hP⟩ := (exists_represents_iff (φ := φ)).2 hp
  obtain ⟨Q, hQ⟩ := (exists_represents_iff (φ := φ)).2 hq
  obtain ⟨R, hR⟩ := (exists_represents_iff (φ := φ)).2 hr
  have hright := hP.add (hQ.add hR)
  rw [← add_assoc] at hright
  exact ((hP.add hQ).add hR).unique hright

theorem ptNeg_closed (hp : p = inf ∨ curveTerm p = b) : ptNeg p = inf ∨ curveTerm (ptNeg p) = b := by
  obtain ⟨φ⟩ := exists_residue_hom
  obtain ⟨P, hP⟩ := (exists_represents_iff (φ := φ)).2 hp
  exact exists_represents_iff.1 ⟨-P, hP.neg⟩

end Curve

/-! ## The curve of R130 -/

/-- Terms change sides of an equation as they are, because each is its own negative. -/
theorem xor_eq_iff (a c d e : Elt) : a ^^^ c ^^^ d = e ↔ a = c ^^^ d ^^^ e := by
  have hcancel : a ^^^ (c ^^^ d) ^^^ (c ^^^ d) = a := by rw [BitVec.xor_assoc a, BitVec.xor_self, BitVec.xor_zero]
  rw [BitVec.xor_assoc, ← BitVec.xor_left_inj (c ^^^ d), hcancel, BitVec.xor_comm e]

theorem onCurve_iff (p : Point) : onCurve p = true ↔ p ≠ inf ∧ curveTerm p = Config.curveB := by
  simp [onCurve, curveTerm, isInf_false_iff, xor_eq_iff]

theorem inGroup_iff (p : Point) : inGroup p = true ↔ p = inf ∨ curveTerm p = Config.curveB := by
  rw [inGroup, Bool.or_eq_true, isInf_iff, onCurve_iff]
  tauto

/-- `curveTerm` on numbers. -/
def curveTermNat (p : Nat) : Nat :=
  gfMulNat (p % 16) (p % 16) ^^^ gfMulNat (p / 16) (p % 16) ^^^ gfMulNat (gfMulNat (p / 16) (p / 16)) (p / 16) ^^^
    gfMulNat 8 (gfMulNat (p / 16) (p / 16))

theorem curveTerm_toNat (p : Point) : (curveTerm p).toNat = curveTermNat p.toNat := by
  simp only [curveTerm, BitVec.toNat_xor, gfMul_toNat, ptX_toNat, ptY_toNat]
  rfl

theorem onCurve_eq_nat (p : Point) : onCurve p = (p.toNat != 0 && curveTermNat p.toNat == 9) := by
  rw [Bool.eq_iff_iff, onCurve_iff, ← BitVec.toNat_inj, ← BitVec.toNat_ne_iff_ne, curveTerm_toNat]
  simp [inf, Config.curveB]

theorem inGroup_eq_nat (p : Point) : inGroup p = (p.toNat == 0 || curveTermNat p.toNat == 9) := by
  rw [Bool.eq_iff_iff, inGroup_iff, ← BitVec.toNat_inj, ← BitVec.toNat_inj, curveTerm_toNat]
  simp [inf, Config.curveB]

theorem onCurve_count : ((List.range 256).filter fun k => onCurve (BitVec.ofNat 8 k)).length = 21 := by
  simp only [onCurve_eq_nat, BitVec.toNat_ofNat]
  decide +kernel

theorem inGroup_count : ((List.range 256).filter fun k => inGroup (BitVec.ofNat 8 k)).length = 22 := by
  simp only [inGroup_eq_nat, BitVec.toNat_ofNat]
  decide +kernel

/-! ## The group of R130 is closed -/

theorem inGroup_ptAdd {p q : Point} (hp : inGroup p = true) (hq : inGroup q = true) : inGroup (ptAdd p q) = true :=
  (inGroup_iff _).2 (ptAdd_closed ((inGroup_iff p).1 hp) ((inGroup_iff q).1 hq))

theorem inGroup_multiple {p : Point} (hp : inGroup p = true) (n : Nat) : inGroup (multiple p n) = true := by
  induction n with
  | zero => exact (inGroup_iff inf).2 (.inl rfl)
  | succ n ih => exact inGroup_ptAdd ih hp

/-! ## The obligations -/

/-- Settles O39: each curve's points represent those of Mathlib's curve, so they add as a group does; the bound of the
orders is R174's. -/
theorem everyCurveIsAGroup : Obligations.EveryCurveIsAGroup := by
  unfold Obligations.EveryCurveIsAGroup
  refine ⟨fun b p q r hp hq hr => ⟨ptAdd_closed hp hq, ptAdd_assoc hp hq hr, ptAdd_comm p q, ptAdd_inf_right p,
    ptAdd_ptNeg p, ptNeg_closed hp⟩, fun p => ?_, inGroup_iff, inGroup_count⟩
  obtain ⟨n, hn⟩ := Option.isSome_iff_exists.1 (orderOf_bound22_isSome p)
  exact ⟨n, isOrder_of_orderOf hn⟩

/-- Settles O40: the group is closed under the adder, and the doubler and both scalar modes only add. -/
theorem groupOfTheCurveIsClosed : Obligations.GroupOfTheCurveIsClosed := by
  unfold Obligations.GroupOfTheCurveIsClosed
  refine ⟨fun x y => ?_, by decide, onCurve_count, fun p q d hp hq => ⟨inGroup_ptAdd hp hq, ?_, ?_, ?_⟩⟩
  · simp [onCurve, isInf_false_iff, Config.curveA, Config.curveB]
  · rw [ptDbl_eq_ptAdd]
    exact inGroup_ptAdd hp hp
  · rw [smulH2l_eq_multiple]
    exact inGroup_multiple hp d.toNat
  · rw [smulL2h_eq_multiple]
    exact inGroup_multiple hp d.toNat

end Sys2Proof.Machine
end

section
/-! PROOFS. Scalar multiplication (R150 to R156). Both traversal modes form the d-fold sum `multiple p d`, so every
statement about them is one about `multiple`, which adds as the scalars do and repeats with the order of the point. -/

namespace Sys2Proof.Machine

/-! ## The d-fold sum in small cases -/

theorem multiple_two (p : Point) : multiple p 2 = ptDbl p := by
  rw [multiple_succ, multiple_one, ptDbl_eq_ptAdd]

/-- INF has only itself as a multiple. -/
@[simp] theorem multiple_inf (n : Nat) : multiple inf n = inf := by
  induction n with
  | zero => rfl
  | succ n ih => rw [multiple_succ, ih, ptAdd_inf_left]

/-- Doubling i times is multiplying by 2^i (R151). -/
theorem ptDbl_iterate (p : Point) (i : Nat) : ptDbl^[i] p = multiple p (2 ^ i) := by
  induction i with
  | zero => rw [Function.iterate_zero_apply, Nat.pow_zero, multiple_one]
  | succ i ih => rw [Function.iterate_succ_apply', ih, ptDbl_multiple, Nat.pow_succ']

theorem exists_isOrder_le_22 (p : Point) : ∃ n, IsOrder p n ∧ n ≤ 22 := by
  obtain ⟨n, hn⟩ := Option.isSome_iff_exists.1 (orderOf_bound22_isSome p)
  exact ⟨n, isOrder_of_orderOf hn⟩

theorem multiple_eq_iff_toNat (p q : Point) (n : Nat) : multiple p n = q ↔ multipleNat p.toNat n = q.toNat := by
  rw [← BitVec.toNat_inj, multiple_toNat]

/-! ## The two modes on scalars given as numbers -/

theorem smulL2h_eq_smulH2l (p : Point) (d : Word) : smulL2h p d = smulH2l p d := by
  rw [smulL2h_eq_multiple, smulH2l_eq_multiple]

theorem smulH2l_ofNat (p : Point) {d : Nat} (hd : d < 2 ^ 16) : smulH2l p (BitVec.ofNat 16 d) = multiple p d := by
  rw [smulH2l_eq_multiple, BitVec.toNat_ofNat, Nat.mod_eq_of_lt hd]

theorem smulL2h_ofNat (p : Point) {d : Nat} (hd : d < 2 ^ 16) : smulL2h p (BitVec.ofNat 16 d) = multiple p d := by
  rw [smulL2h_eq_smulH2l, smulH2l_ofNat p hd]

@[simp] theorem smulH2l_zero (p : Point) : smulH2l p 0#16 = inf := smulH2l_eq_multiple p 0#16

@[simp] theorem smulH2l_one (p : Point) : smulH2l p 1#16 = p := (smulH2l_eq_multiple p 1#16).trans (multiple_one p)

theorem smulH2l_two (p : Point) : smulH2l p 2#16 = ptDbl p := (smulH2l_eq_multiple p 2#16).trans (multiple_two p)

@[simp] theorem smulH2l_inf (d : Word) : smulH2l inf d = inf := (smulH2l_eq_multiple inf d).trans (multiple_inf d.toNat)

/-- Scalars count modulo every number that takes the point to INF (R155). -/
theorem smulH2l_mod {p : Point} {n : Nat} (h : multiple p n = inf) (d : Word) :
    smulH2l p (BitVec.ofNat 16 (d.toNat % n)) = smulH2l p d := by
  have hlt : d.toNat % n < 2 ^ 16 := (Nat.mod_le _ _).trans_lt d.isLt
  rw [smulH2l_ofNat p hlt, multiple_mod h, smulH2l_eq_multiple]

/-- Scalars add as numbers where their sum fits into 16 bits (R156). -/
theorem smulH2l_add (p : Point) {a b : Word} (h : a.toNat + b.toNat ≤ 65535) :
    smulH2l p (a + b) = ptAdd (smulH2l p a) (smulH2l p b) := by
  have hsum : (a + b).toNat = a.toNat + b.toNat := BitVec.toNat_add_of_lt (by omega)
  simp only [smulH2l_eq_multiple, hsum, multiple_add]

/-! ## The point 0x50 of R152 and R153 -/

theorem smulH2l_example_seven : smulH2l 0x50#8 0x0007#16 = 0x2D#8 := by
  rw [smulH2l_eq_multiple, multiple_eq_iff_toNat]
  decide

/-- The order of the point is 22, and 65535 leaves the remainder 19. -/
theorem smulH2l_example_max : smulH2l 0x50#8 0xFFFF#16 = 0x11#8 := by
  have hinf : multiple 0x50#8 22 = inf := (multiple_eq_iff_toNat _ _ _).2 (by decide)
  have hrem : multiple 0x50#8 (65535 % 22) = 0x11#8 := (multiple_eq_iff_toNat _ _ _).2 (by decide)
  exact (smulH2l_eq_multiple _ _).trans ((multiple_mod hinf 65535).symm.trans hrem)

/-! ## The obligations -/

/-- Settles O43: both modes form the d-fold sum. -/
theorem scalarModesAgree : Obligations.ScalarModesAgree := by
  unfold Obligations.ScalarModesAgree
  exact fun p d => ⟨(smulL2h_eq_smulH2l p d).symm, smulH2l_eq_multiple p d, fun hd => hd ▸ smulH2l_zero p⟩

/-- Settles O24: the corner cases are those of the d-fold sum. -/
theorem smulhWritesTheMultiple : Obligations.SmulhWritesTheMultiple := by
  unfold Obligations.SmulhWritesTheMultiple
  exact ⟨rfl, fun s => rfl, fun p => ⟨smulH2l_zero p, smulH2l_one p⟩, smulH2l_inf,
    smulH2l_example_max, smulH2l_example_seven⟩

/-- Settles O25: SMULL's multiple is SMULH's. -/
theorem smullWritesTheMultiple : Obligations.SmullWritesTheMultiple := by
  unfold Obligations.SmullWritesTheMultiple
  refine ⟨rfl, fun s => rfl, fun p => ⟨?_, ?_⟩, fun d => ?_, smulL2h_eq_smulH2l,
    (smulL2h_eq_smulH2l _ _).trans smulH2l_example_seven⟩
  · rw [smulL2h_eq_smulH2l, smulH2l_zero, inf]
  · rw [smulL2h_eq_smulH2l, smulH2l_one]
  · exact (smulL2h_eq_smulH2l inf d).trans (smulH2l_inf d)

/-- Settles O41: the (2d)-fold sum is the double of the d-fold one, and the next one has one point more. -/
theorem highToLowDoublesThenAdds : Obligations.HighToLowDoublesThenAdds := by
  unfold Obligations.HighToLowDoublesThenAdds
  refine fun p => ⟨smulH2l_zero p, smulH2l_one p, fun d _ hd => ?_⟩
  have hdouble : ptDbl (smulH2l p (BitVec.ofNat 16 d)) = multiple p (2 * d) := by
    rw [smulH2l_ofNat p (by omega), ptDbl_multiple]
  constructor
  · rw [hdouble, smulH2l_ofNat p (by omega)]
  · rw [hdouble, smulH2l_ofNat p hd, multiple_succ]

/-- Settles O42: the base doubled i times is the (2^i)-fold sum, and sums add as their numbers do. -/
theorem lowToHighAddsTheDoubledBase : Obligations.LowToHighAddsTheDoubledBase := by
  unfold Obligations.LowToHighAddsTheDoubledBase
  refine fun p => ⟨(smulL2h_eq_smulH2l p 0#16).trans (smulH2l_zero p), fun i m hi hm => ?_⟩
  have hpow : 2 ^ (i + 1) ≤ 2 ^ 16 := Nat.pow_le_pow_right (by decide) hi
  rw [Nat.pow_succ] at hpow
  rw [smulL2h_ofNat p (by omega), smulL2h_ofNat p (by omega), ptDbl_iterate, ← multiple_add, Nat.add_comm]

/-- Settles O44: the multiples repeat with the order, which the bound 22 always finds. -/
theorem scalarsCountModuloTheOrder : Obligations.ScalarsCountModuloTheOrder := by
  unfold Obligations.ScalarsCountModuloTheOrder
  intro p
  obtain ⟨n, hord, hle⟩ := exists_isOrder_le_22 p
  have ⟨_, hinf, _⟩ := hord
  have hsmall : smulH2l p 0#16 = inf ∧ smulH2l p 1#16 = p ∧ smulH2l p 2#16 = ptDbl p :=
    ⟨smulH2l_zero p, smulH2l_one p, smulH2l_two p⟩
  simp only [smulL2h_eq_smulH2l, and_self]
  exact ⟨hsmall, hsmall, n, hord, hle, fun d => (smulH2l_mod hinf d).symm⟩

/-- Settles O45: the d-fold sums add as their numbers do, and the sum of the scalars does not wrap. -/
theorem scalarsAreLinear : Obligations.ScalarsAreLinear := by
  unfold Obligations.ScalarsAreLinear
  intro p a b hfit
  simp only [smulL2h_eq_smulH2l, and_self]
  exact smulH2l_add p hfit

end Sys2Proof.Machine
end

section
/-! PROOFS. The order detector (R170 to R174). `order_of` answers exactly the orders within its bound, so ORDER's two
outcomes are told apart by the order of the point alone; on the curve the orders divide 22. -/

namespace Sys2Proof.Machine

/-! ## `order_of` answers the order (R170) -/

theorem orderOf_eq_some_iff {g : Point} {m : Word} {n : Nat} : orderOf g m = some n ↔ IsOrder g n ∧ n ≤ m.toNat := by
  refine ⟨isOrder_of_orderOf, fun ⟨hn, hle⟩ => ?_⟩
  cases hord : orderOf g m with
  | none =>
    have hlt : m.toNat < n := lt_of_orderOf_eq_none hord hn
    omega
  | some k =>
    obtain ⟨hk, -⟩ := isOrder_of_orderOf hord
    rw [hk.unique hn]

theorem orderOf_eq_none_iff {g : Point} {m : Word} : orderOf g m = none ↔ ∃ n, IsOrder g n ∧ m.toNat < n := by
  constructor
  · intro hnone
    obtain ⟨n, hn, -⟩ := exists_isOrder_le_22 g
    exact ⟨n, hn, lt_of_orderOf_eq_none hnone hn⟩
  · rintro ⟨n, hn, hlt⟩
    refine Option.eq_none_iff_forall_ne_some.2 fun k hk => ?_
    obtain ⟨hord, hle⟩ := isOrder_of_orderOf hk
    rw [hord.unique hn] at hle
    omega

/-- The bound 22 leaves no order out (R174). -/
theorem orderOf_bound22_eq_some_iff {g : Point} {n : Nat} : orderOf g 22#16 = some n ↔ IsOrder g n :=
  orderOf_eq_some_iff.trans (and_iff_left_of_imp IsOrder.le_22)

/-! ## Orders evaluated on numbers -/

theorem isOrder_iff_nat (g : Point) (n : Nat) :
    IsOrder g n ↔ 1 ≤ n ∧ multipleNat g.toNat n = 0 ∧ ∀ k, k < n → 1 ≤ k → multipleNat g.toNat k ≠ 0 := by
  simp only [isOrder_iff, ne_eq, multiple_eq_iff_toNat]
  rfl

theorem orderOf_bound22_beq_some (g : Point) (n : Nat) :
    (orderOf g 22#16 == some n) =
      decide (1 ≤ n ∧ multipleNat g.toNat n = 0 ∧ ∀ k, k < n → 1 ≤ k → multipleNat g.toNat k ≠ 0) := by
  rw [Bool.eq_iff_iff, beq_iff_eq, orderOf_bound22_eq_some_iff, isOrder_iff_nat, decide_eq_true_iff]

/-! ## The orders in the group of the curve (R174) -/

theorem isOrder_one_iff {g : Point} : IsOrder g 1 ↔ g = inf := by
  refine ⟨fun ⟨_, hinf, _⟩ => (multiple_one g).symm.trans hinf, fun hg => ?_⟩
  exact ⟨le_rfl, (multiple_one g).trans hg, fun k hk hlt => by omega⟩

theorem IsOrder.dvd {g : Point} {n k : Nat} (hn : IsOrder g n) (hk : multiple g k = inf) : n ∣ k := by
  obtain ⟨hpos, hinf, hleast⟩ := hn
  have hrem : multiple g (k % n) = inf := (multiple_mod hinf k).trans hk
  by_contra hdvd
  have hne : k % n ≠ 0 := fun h0 => hdvd (Nat.dvd_of_mod_eq_zero h0)
  exact hleast (k % n) (by omega) (Nat.mod_lt k hpos) hrem

/-- The group has 22 elements, and only INF and 0x0B are their own negatives. -/
theorem multiple_22_and_2_of_inGroup {g : Point} (hg : inGroup g = true) :
    multiple g 22 = inf ∧ (multiple g 2 = inf → g = inf ∨ g = 0x0B#8) := by
  have hall : ∀ p, p < 256 → (p == 0 || curveTermNat p == 9) = true →
      multipleNat p 22 = 0 ∧ (multipleNat p 2 = 0 → p = 0 ∨ p = 11) := by decide +kernel
  obtain ⟨h22, h2⟩ := hall g.toNat g.isLt ((inGroup_eq_nat g).symm.trans hg)
  refine ⟨(multiple_eq_iff_toNat g inf 22).2 h22, fun h => ?_⟩
  exact (h2 ((multiple_eq_iff_toNat g inf 2).1 h)).imp BitVec.eq_of_toNat_eq BitVec.eq_of_toNat_eq

theorem isOrder_two_iff {g : Point} (hg : inGroup g = true) : IsOrder g 2 ↔ g = 0x0B#8 := by
  refine ⟨fun h2 => ?_, fun h => h ▸ (isOrder_iff_nat _ _).2 (by decide)⟩
  have ⟨_, hinf, _⟩ := h2
  obtain h | h := (multiple_22_and_2_of_inGroup hg).2 hinf
  · exact absurd (h2.unique (isOrder_one_iff.2 h)) (by decide)
  · exact h

/-- An order divides 22, so it is 1, 2, 11 or 22. -/
theorem isOrder_11_or_22 {g : Point} (hg : inGroup g = true) (hinf : g ≠ inf) (hB : g ≠ 0x0B#8) :
    IsOrder g 11 ∨ IsOrder g 22 := by
  obtain ⟨n, hn, -⟩ := exists_isOrder_le_22 g
  have hdvd : n ∈ Nat.divisors 22 := Nat.mem_divisors.2 ⟨hn.dvd (multiple_22_and_2_of_inGroup hg).1, by decide⟩
  have hdivisors : Nat.divisors 22 = {1, 2, 11, 22} := by decide
  simp only [hdivisors, Finset.mem_insert, Finset.mem_singleton] at hdvd
  obtain rfl | rfl | rfl | rfl := hdvd
  · exact absurd (isOrder_one_iff.1 hn) hinf
  · exact absurd ((isOrder_two_iff hg).1 hn) hB
  · exact .inl hn
  · exact .inr hn

/-! ## The obligations -/

/-- Settles O46: an order is unique, and none is missed within the bound. -/
theorem orderIsTheLeastMultiple : Obligations.OrderIsTheLeastMultiple := by
  unfold Obligations.OrderIsTheLeastMultiple
  exact fun _ _ _ => orderOf_eq_some_iff

/-- Settles O26: ORDER's two outcomes are those of `order_of`. -/
theorem orderWritesTheOrderAndVerdict : Obligations.OrderWritesTheOrderAndVerdict := by
  unfold Obligations.OrderWritesTheOrderAndVerdict
  refine ⟨rfl, fun s => ?_, (isOrder_iff_nat _ _).2 (by decide)⟩
  cases hord : orderOf s.pointA s.bound with
  | some n =>
    obtain ⟨hn, hle⟩ := isOrder_of_orderOf hord
    refine ⟨BitVec.ofNat 16 n, BitVec.ofNat 16 n == s.cardinality, errNone, exec_order_of_some hord, .inl ?_⟩
    rw [hn.toNat_ofNat]
    exact ⟨hn, hle, rfl, beq_iff_eq⟩
  | none =>
    exact ⟨0x0000#16, false, errOrderNotFound, exec_order_of_none hord,
      .inr ⟨fun _ => lt_of_orderOf_eq_none hord, rfl, rfl, rfl⟩⟩

/-- Settles O47: in a group of 22 elements the orders divide 22; how many points have which is counted. -/
theorem ordersAreAtMostTwentyTwo : Obligations.OrdersAreAtMostTwentyTwo := by
  unfold Obligations.OrdersAreAtMostTwentyTwo
  refine ⟨fun g m hm => ?_, fun g m => orderOf_eq_none_iff,
    fun g hg => ⟨isOrder_one_iff, isOrder_two_iff hg, isOrder_11_or_22 hg⟩, ?_, ?_⟩
  · obtain ⟨n, hn, hle⟩ := exists_isOrder_le_22 g
    exact ⟨n, orderOf_eq_some_iff.2 ⟨hn, hle.trans hm⟩, hle⟩
  · simp only [inGroup_eq_nat, orderOf_bound22_beq_some, BitVec.toNat_ofNat]
    decide +kernel
  · simp only [inGroup_eq_nat, orderOf_bound22_beq_some, BitVec.toNat_ofNat]
    decide +kernel

/-- Settles O48: each corner case decides between ORDER's two outcomes (R171), because the order is unique and at
least 1. -/
theorem orderCornerCases : Obligations.OrderCornerCases := by
  unfold Obligations.OrderCornerCases
  refine ⟨⟨(isOrder_iff_nat _ _).2 (by decide), by decide⟩, fun s => ?_⟩
  obtain ⟨-, hresult, -⟩ := orderWritesTheOrderAndVerdict
  obtain ⟨n, g, e, hexec, ⟨hn, hle, rfl, hverdict⟩ | ⟨hlt, rfl, rfl, rfl⟩⟩ := hresult s
  · have hpos : 1 ≤ n.toNat := hn.1
    refine ⟨_, hexec, rfl, fun hA _ => ?_, fun hK => ?_, fun k hk _ => ⟨rfl, hn.unique hk⟩, fun k hk hK => ?_,
      fun hN => ?_, fun herr => absurd herr (show 0#3 ≠ 2#3 by decide)⟩
    · have h1 : n = 1#16 := BitVec.eq_of_toNat_eq (hn.unique (isOrder_one_iff.2 hA))
      exact ⟨h1, hverdict.trans (by rw [h1, eq_comm])⟩
    · rw [hK, BitVec.toNat_zero] at hle
      omega
    · rw [← hn.unique hk] at hK
      omega
    · refine Bool.eq_false_iff.2 fun hg => ?_
      rw [hverdict.1 hg, hN] at hpos
      exact absurd hpos (by decide)
  · refine ⟨_, hexec, rfl, fun hA hK => ?_, fun _ => rfl, fun k hk hK => ?_, fun _ _ _ => rfl, fun _ => rfl,
      fun _ => ⟨rfl, rfl⟩⟩
    · have hK1 : s.latK.toNat < 1 := hlt 1 (isOrder_one_iff.2 hA)
      omega
    · have hKk : s.latK.toNat < k := hlt k hk
      omega

end Sys2Proof.Machine
end

section
/-! PROOFS. The error codes of the commands (R191). Each command's completion is known from the statement about its
result; a code's cause is read off from it, command by command. -/

namespace Sys2Proof.Machine

/-- Settles O29: only FINV, ORDER and an illegal word have a completion with ERR other than 0; FINV's two completions
are told apart by the operand, and ORDER's by the point's order, which is unique. -/
theorem errorCodesHaveTheirCauses : Obligations.ErrorCodesHaveTheirCauses := by
  unfold Obligations.ErrorCodesHaveTheirCauses
  intro i s hi
  cases i with
  | fmul | padd | pdbl | smulh | smull => exact ⟨_, rfl, by simp [errNone]⟩
  | finv =>
    obtain ⟨-, hresult⟩ := finvWritesTheInverse
    obtain ⟨r, hexec, hr, -⟩ := hresult s
    refine ⟨_, hexec, ?_⟩
    by_cases hzero : s.latA.toNat % 16 = 0
    · have hr0 : r = 0x00#8 := BitVec.eq_of_toNat_eq (by rw [hr, hzero]; rfl)
      simp [hzero, hr0]
    · simp [hzero]
  | order =>
    obtain ⟨-, hresult, -⟩ := orderWritesTheOrderAndVerdict
    obtain ⟨n, g, e, hexec, ⟨hn, hle, rfl, -⟩ | ⟨hlt, rfl, rfl, rfl⟩⟩ := hresult s
    · have hfound : ¬ ∀ k, IsOrder s.latA k → s.latK.toNat < k := fun h => absurd (h _ hn) hle.not_gt
      exact ⟨_, hexec, by simp [hfound]⟩
    · exact ⟨_, hexec, by simpa using hlt⟩
  | illegal rsv op => exact ⟨_, exec_illegal rsv op s, by simp [errIllegalCmd]⟩
  | wr | rd => cases hi

end Sys2Proof.Machine
end

section
/-! PROOFS. A command in flight (R210, R214, R215, R218, R220): what every step before its COMPLETE keeps, that COMPLETE
comes once the transactions due are made, and what RESET leaves. -/

namespace Sys2Proof.Machine

/-! ## What is kept until COMPLETE (R95, R214) -/

/-- `t` holds the command in flight of `s`: CMD, STATUS, the result registers and the latches agree. -/
structure State.KeepsCommand (s t : State) : Prop extends State.SameOperands s t where
  latCmd : t.latCmd = s.latCmd
  cmd : t.cmd = s.cmd
  status : t.status = s.status
  res : t.res = s.res
  cnt : t.cnt = s.cnt

theorem State.KeepsCommand.refl (s : State) : s.KeepsCommand s := ⟨⟨rfl, rfl, rfl, rfl⟩, rfl, rfl, rfl, rfl, rfl⟩

theorem State.KeepsCommand.trans {s t u : State} (hst : s.KeepsCommand t) (htu : t.KeepsCommand u) :
    s.KeepsCommand u where
  latA := htu.latA.trans hst.latA
  latB := htu.latB.trans hst.latB
  latK := htu.latK.trans hst.latK
  latN := htu.latN.trans hst.latN
  latCmd := htu.latCmd.trans hst.latCmd
  cmd := htu.cmd.trans hst.cmd
  status := htu.status.trans hst.status
  res := htu.res.trans hst.res
  cnt := htu.cnt.trans hst.cnt

theorem State.logRead_keepsCommand (s : State) (v : Word) : s.KeepsCommand (s.logRead v) :=
  ⟨⟨rfl, rfl, rfl, rfl⟩, rfl, rfl, rfl, rfl, rfl⟩

theorem State.hostTurn_keepsCommand (s : State) (rest : List HostAction) : s.KeepsCommand (s.hostTurn rest) :=
  ⟨⟨rfl, rfl, rfl, rfl⟩, rfl, rfl, rfl, rfl, rfl⟩

theorem State.noteCmdWrite_keepsCommand (s : State) (i : Instr) : s.KeepsCommand (s.noteCmdWrite i) :=
  ⟨⟨rfl, rfl, rfl, rfl⟩, rfl, rfl, rfl, rfl, rfl⟩

/-- While busy no write issues, so each keeps the command in flight and the moment of its COMPLETE (R97). -/
theorem State.portWrite_keepsCommand {s : State} (hbusy : s.status.busy = true) (r : Reg) (v : Word) :
    s.KeepsCommand (s.portWrite r v) ∧ (s.portWrite r v).due = s.due := by
  obtain ⟨a, b, k, n, hw⟩ := State.portWrite_frame (s := s) (r := r) (fun _ => hbusy) v
  rw [hw]
  exact ⟨⟨⟨rfl, rfl, rfl, rfl⟩, rfl, rfl, rfl, rfl, rfl⟩, rfl⟩

/-- A step before COMPLETE that is no RESET is a transaction: it keeps the command in flight and brings its COMPLETE one
transaction nearer (R214, R218). -/
theorem step_in_flight {s t : State} (hbusy : s.status.busy = true) (hc : s.completes = false)
    (hreset : ∀ rest, s.pending ≠ .reset :: rest) (h : step s = .next t) : s.KeepsCommand t ∧ t.due + 1 = s.due := by
  have hwait : ¬ (s.due = 0 ∨ s.pending = []) := fun hd => by simp [s.completes_iff.2 ⟨hbusy, hd⟩] at hc
  obtain ⟨hdue, hne⟩ := not_or.1 hwait
  have hcount : s.due - 1 + 1 = s.due := Nat.succ_pred hdue
  obtain ⟨hc', -⟩ | ⟨-, -, rest, r, v, -, -, rfl⟩ | ⟨-, -, rest, r, rfl⟩ | ⟨-, rest, hp, -⟩ | ⟨-, hp, -⟩ := step_cases h
  · simp [hc] at hc'
  · obtain ⟨hkeeps, hkept⟩ :=
      State.portWrite_keepsCommand (s := (s.hostTurn rest).noteCmdWrite (.wr r v)) hbusy r v
    have hturn := (s.hostTurn_keepsCommand rest).trans (State.noteCmdWrite_keepsCommand _ (.wr r v))
    exact ⟨hturn.trans hkeeps, by rw [hkept]; exact hcount⟩
  · exact ⟨(s.hostTurn_keepsCommand rest).trans (State.logRead_keepsCommand _ _), hcount⟩
  · exact absurd hp (hreset rest)
  · exact absurd hp hne

theorem execAll_cons_of_exec {i : Instr} {is : List Instr} {s t : State} (h : exec i s = .next t) :
    execAll (i :: is) s = execAll is t := by
  simp [execAll, h]

/-- Transactions in flight keep the command (R95, R216). -/
theorem execAll_in_flight {is : List Instr} {s : State} (his : ∀ i ∈ is, isCommand i = false)
    (hbusy : s.status.busy = true) : ∃ t, execAll is s = .next t ∧ s.KeepsCommand t := by
  induction is generalizing s with
  | nil => exact ⟨s, rfl, .refl s⟩
  | cons i is ih =>
    obtain ⟨hi, his⟩ := List.forall_mem_cons.1 his
    obtain ⟨u, hu⟩ := exec_eq_next i s
    have hsu : s.KeepsCommand u := by
      obtain ⟨r, v, -, rfl⟩ | ⟨r, -, rfl⟩ := transaction_cases hi hu
      · exact (State.portWrite_keepsCommand hbusy r v).1
      · exact s.logRead_keepsCommand _
    obtain ⟨t, ht, hut⟩ := ih his (hsu.status ▸ hbusy)
    exact ⟨t, (execAll_cons_of_exec hu).trans ht, hsu.trans hut⟩

/-- The command kept completes with the same results and STATUS; OPA is not its concern (R95). -/
theorem State.KeepsCommand.completion {s s' : State} (h : s.KeepsCommand s') :
    ∃ t t', exec (decodeCommand s.latCmd) s = .next t ∧ exec (decodeCommand s'.latCmd) s' = .next t' ∧
      t'.res = t.res ∧ t'.cnt = t.cnt ∧ t'.status = t.status ∧ t'.cmd = t.cmd ∧ t'.opa = s'.opa := by
  rw [h.latCmd]
  obtain ⟨-, v, code, hs, hs'⟩ | ⟨-, n, g, code, hs, hs'⟩ | ⟨-, -, code, hs, hs'⟩ :=
    exec_of_sameOperands (isCommand_decodeCommand s.latCmd) h.toSameOperands <;>
    exact ⟨_, _, hs, hs', by simp [h.res, h.cnt, h.status, h.cmd]⟩

/-! ## Steps by kind -/

/-- A CMD write of the idle core's host issues, with its latency drawn, and is noted as not dropped (R94, R218). -/
theorem step_cmdWrite_of_idle {s : State} {v : Word} {rest : List HostAction} (hidle : s.status.busy = false)
    (hp : s.pending = wrAction .cmd v :: rest) :
    ∃ t, step s = .next t ∧ t.pending = rest ∧ t.due = s.nextLatency ∧ t.cmdLost = false ∧
      t.coreOnly = s.coreOnly.issueRegs v := by
  have hstep := step_wrAction (State.completes_of_idle hidle) hp
  rw [State.portWrite_cmd, State.writeCmd_of_idle (s := (s.hostTurn rest).noteCmdWrite _) v hidle] at hstep
  exact ⟨_, hstep, rfl, rfl, hidle, rfl⟩

/-- The issued word and STATUS, seen on the core's own fields (R94). -/
theorem fields_of_issueRegs {s t : State} {v : Word} (h : t.coreOnly = s.coreOnly.issueRegs v) :
    t.cmd = v ∧ t.latCmd = v ∧ t.status = s.status.issued :=
  ⟨congrArg State.cmd h, congrArg State.latCmd h, congrArg State.status h⟩

/-- A CMD write before the COMPLETE of the command in flight is dropped, which the model notes, and changes nothing of
the core (R97, R215). -/
theorem step_cmdWrite_of_busy {s : State} {v : Word} {rest : List HostAction} (hbusy : s.status.busy = true)
    (hdue : s.due ≠ 0) (hp : s.pending = wrAction .cmd v :: rest) :
    ∃ t, step s = .next t ∧ t.pending = rest ∧ t.cmdLost = true ∧ t.coreOnly = s.coreOnly := by
  have hstep := step_wrAction (State.completes_of_not_due (fun _ => hdue) hp) hp
  rw [State.portWrite_cmd, State.writeCmd_of_busy (s := (s.hostTurn rest).noteCmdWrite _) v hbusy] at hstep
  exact ⟨_, hstep, rfl, hbusy, rfl⟩

/-- COMPLETE, where it is the next step (R96). -/
theorem step_of_completes {s : State} (hc : s.completes = true) :
    ∃ t, step s = .next t ∧ exec (decodeCommand s.latCmd) s = .next t ∧ Completion s (decodeCommand s.latCmd) t := by
  obtain ⟨t, ht, hcompl⟩ := exec_completion (isCommand_decodeCommand s.latCmd) s
  exact ⟨t, (step_of_run (State.turn_of_completes hc)).trans ht, ht, hcompl⟩

theorem Completion.pending {i : Instr} {s t : State} (h : Completion s i t) : t.pending = s.pending := by rw [h.frame]

theorem State.nextLatency_of_cons {s : State} {n : Nat} {ls : List Nat} (h : s.latencies = n :: ls) :
    s.nextLatency = n := by
  simp [State.nextLatency, h]

/-! ## What is left of the host's program -/

/-- No instruction changes what the host still does. -/
theorem exec_keeps_pending {i : Instr} {s t : State} (h : exec i s = .next t) : t.pending = s.pending := by
  cases hi : isCommand i with
  | true => exact (completion_of_exec hi h).pending
  | false =>
    obtain ⟨r, v, -, rfl⟩ | ⟨r, -, rfl⟩ := transaction_cases hi h
    · exact (s.portWrite_keeps_host r v).1
    · rfl

theorem pending_of_step_record {s t : State} {x : Htx} {rest : List HostAction} (hc : s.completes = false)
    (hp : s.pending = .htx x :: rest) (h : step s = .next t) : t.pending = rest := by
  rw [step_of_run (State.turn_of_htx hc hp)] at h
  exact exec_keeps_pending h

/-- What the turn leaves to do is a tail of what there was. -/
theorem State.turn_pending_suffix (s : State) :
    (∃ i t, s.turn = .run i t ∧ t.pending <:+ s.pending) ∨ ∃ t, s.turn = .stay t ∧ t.pending <:+ s.pending := by
  cases hc : s.completes with
  | true => exact .inl ⟨_, _, State.turn_of_completes hc, List.suffix_rfl⟩
  | false =>
    cases hp : s.pending with
    | nil => exact .inr ⟨_, State.turn_of_nil hc hp, by rw [hp]⟩
    | cons a rest =>
      have htail : rest <:+ a :: rest := List.suffix_cons a rest
      cases a with
      | htx x => exact .inl ⟨_, _, State.turn_of_htx hc hp, htail⟩
      | waitBusy =>
        refine .inl ⟨_, _, State.turn_of_waitBusy hc hp, ?_⟩
        rw [State.hostTurn_pending]
        split
        · exact List.suffix_rfl
        · exact htail
      | waitDone =>
        refine .inl ⟨_, _, State.turn_of_waitDone hc hp, ?_⟩
        rw [State.hostTurn_pending]
        split
        · exact htail
        · exact List.suffix_rfl
      | reset => exact .inr ⟨_, State.turn_of_reset hc hp, htail⟩

/-- The host's program only shrinks, from its front. -/
theorem step_pending_suffix {s t : State} (h : step s = .next t) : t.pending <:+ s.pending := by
  obtain ⟨i, u, hturn, hu⟩ | ⟨u, hturn, hu⟩ := s.turn_pending_suffix
  · rw [step_of_run hturn] at h
    rwa [exec_keeps_pending h]
  · rw [step_of_stay hturn] at h
    cases h
    exact hu

/-! ## The moment of COMPLETE (R218, R220) -/

/-- Without a RESET the command in flight stays until its COMPLETE, which comes after the transactions due at most. -/
theorem run_to_completes {s : State} (hbusy : s.status.busy = true) (hreset : HostAction.reset ∉ s.pending) :
    ∃ k t, k ≤ s.due ∧ run k s = .next t ∧ t.completes = true ∧ s.KeepsCommand t := by
  induction hd : s.due generalizing s with
  | zero => exact ⟨0, s, Nat.le_refl 0, rfl, s.completes_iff.2 ⟨hbusy, .inl hd⟩, .refl s⟩
  | succ n ih =>
    cases hc : s.completes with
    | true => exact ⟨0, s, Nat.zero_le _, rfl, hc, .refl s⟩
    | false =>
      obtain ⟨u, hu⟩ := step_eq_next s
      have hhead (rest : List HostAction) : s.pending ≠ .reset :: rest := fun hp => hreset (by simp [hp])
      obtain ⟨hsu, hdue⟩ := step_in_flight hbusy hc hhead hu
      obtain ⟨k, t, hk, hrun, hct, hut⟩ := ih (hsu.status ▸ hbusy)
        (fun hmem => hreset ((step_pending_suffix hu).subset hmem)) (by omega)
      exact ⟨k + 1, t, Nat.succ_le_succ hk, (run_succ k hu).trans hrun, hct, hsu.trans hut⟩

/-- A command whose COMPLETE is due after a list of records is in flight until the last of them, each record counting
once (R218). -/
theorem run_records {s : State} {recs : List Htx} {rest : List HostAction} (hbusy : s.status.busy = true)
    (hdue : s.due = recs.length) (hp : s.pending = recs.map .htx ++ rest) {k : Nat} (hk : k ≤ recs.length) :
    ∃ t, run k s = .next t ∧ s.KeepsCommand t ∧ t.due + k = recs.length ∧
      t.pending = (recs.drop k).map .htx ++ rest := by
  induction k with
  | zero => exact ⟨s, rfl, .refl s, hdue, hp⟩
  | succ k ih =>
    obtain ⟨t, hrun, hst, hduet, hpt⟩ := ih (Nat.le_of_succ_le hk)
    rw [List.drop_eq_getElem_cons hk, List.map_cons, List.cons_append] at hpt
    have hc : t.completes = false := State.completes_of_not_due (fun _ => by omega) hpt
    obtain ⟨u, hu⟩ := step_eq_next t
    obtain ⟨htu, hdueu⟩ := step_in_flight (hst.status ▸ hbusy) hc (by simp [hpt]) hu
    exact ⟨u, (run_add k 1 hrun).trans (run_one hu), hst.trans htu, by omega, pending_of_step_record hc hpt hu⟩

/-! ## The obligations -/

/-- Settles O31: the transactions keep what the command computes from and what its completion keeps. -/
theorem transactionsInFlightDoNotChangeTheResult : Obligations.TransactionsInFlightDoNotChangeTheResult := by
  unfold Obligations.TransactionsInFlightDoNotChangeTheResult
  intro is s his hbusy
  obtain ⟨s', hs', hkeeps⟩ := execAll_in_flight his hbusy
  obtain ⟨t, t', hcompl⟩ := hkeeps.completion
  exact ⟨s', t, t', hs', hcompl⟩

/-- Settles O49: the step is a transaction, and ERR is clear by the invariant. -/
theorem resultsAreStaleUntilComplete : Obligations.ResultsAreStaleUntilComplete := by
  unfold Obligations.ResultsAreStaleUntilComplete
  intro s hinv hbusy hc hreset
  obtain ⟨t, ht⟩ := step_eq_next s
  obtain ⟨hkeeps, hdue⟩ := step_in_flight hbusy hc hreset ht
  obtain ⟨herr, -⟩ := hinv.busy_issued hbusy
  exact ⟨t, ht, hkeeps.res, hkeeps.cnt, hkeeps.status, hkeeps.status ▸ herr, hkeeps.cmd, hkeeps.latCmd, hkeeps.latA,
    hkeeps.latB, hkeeps.latK, hkeeps.latN, hdue⟩

/-- Settles O51: with latency 0 the steps are issue, COMPLETE, issue; with latency 1 they are issue, dropped write. -/
theorem bothOutcomesOfABusyWriteOccur : Obligations.BothOutcomesOfABusyWriteOccur := by
  unfold Obligations.BothOutcomesOfABusyWriteOccur
  intro s v w rest hidle hp
  constructor
  · obtain ⟨t, hissue, hpt, hdue, -, hcore⟩ := step_cmdWrite_of_idle (s := { s with latencies := [0] }) hidle hp
    obtain ⟨-, -, hstatus⟩ := fields_of_issueRegs hcore
    obtain ⟨u, hu, -, hcompl⟩ := step_of_completes (t.completes_iff.2 ⟨congrArg Status.busy hstatus, .inl hdue⟩)
    obtain ⟨x, hissue', hpx, -, -, hcore'⟩ := step_cmdWrite_of_idle hcompl.busy (hcompl.pending.trans hpt)
    obtain ⟨hcmd, hlat, hstatus'⟩ := fields_of_issueRegs hcore'
    exact ⟨3, x, by rw [run_succ 2 hissue, run_succ 1 hu, run_one hissue'], hpx, congrArg Status.busy hstatus', hcmd,
      hlat⟩
  · obtain ⟨t, hissue, hpt, hdue, -, hcore⟩ := step_cmdWrite_of_idle (s := { s with latencies := [1] }) hidle hp
    obtain ⟨-, -, hstatus⟩ := fields_of_issueRegs hcore
    have hbusy : t.status.busy = true := congrArg Status.busy hstatus
    obtain ⟨u, hdropped, hpu, -, hsame⟩ := step_cmdWrite_of_busy hbusy (hdue.trans_ne Nat.one_ne_zero) hpt
    obtain ⟨hcmd, hlat, hstatus⟩ := fields_of_issueRegs (hsame.trans hcore)
    exact ⟨2, u, (run_succ 1 hissue).trans (run_one hdropped), hpu, congrArg Status.busy hstatus, hcmd, hlat⟩

/-- Settles O52: the issue draws the list's length, and each record counts once. -/
theorem latencyCountsTheTransactions : Obligations.LatencyCountsTheTransactions := by
  unfold Obligations.LatencyCountsTheTransactions
  intro s v recs ls rest hidle hlat hp
  obtain ⟨u, hissue, hpu, hdue, -, hcore⟩ := step_cmdWrite_of_idle hidle hp
  obtain ⟨-, hlatu, hstatus⟩ := fields_of_issueRegs hcore
  have hbusyu : u.status.busy = true := congrArg Status.busy hstatus
  rw [State.nextLatency_of_cons hlat] at hdue
  refine ⟨fun k hk => ?_, ?_⟩
  · obtain ⟨t, hrun, hkeeps, hduet, hpt⟩ := run_records hbusyu hdue hpu (Nat.le_of_lt hk)
    rw [List.drop_eq_getElem_cons hk] at hpt
    exact ⟨t, (run_add 1 k (run_one hissue)).trans hrun, hkeeps.status ▸ hbusyu,
      State.completes_of_not_due (fun _ => by omega) hpt⟩
  · obtain ⟨t, hrun, hkeeps, hduet, hpt⟩ := run_records hbusyu hdue hpu (Nat.le_refl _)
    have hbusy : t.status.busy = true := hkeeps.status ▸ hbusyu
    have hc : t.completes = true := t.completes_iff.2 ⟨hbusy, .inl (by omega)⟩
    have hstep := step_of_run (State.turn_of_completes hc)
    rw [hkeeps.latCmd, hlatu] at hstep
    exact ⟨t, (run_add 1 _ (run_one hissue)).trans hrun, hbusy, hc, by simpa using hpt, hstep⟩

/-- Settles O53: the transactions due run out. -/
theorem everyCommandInFlightCompletes : Obligations.EveryCommandInFlightCompletes := by
  unfold Obligations.EveryCommandInFlightCompletes
  intro s hbusy hreset
  obtain ⟨k, t, hk, hrun, hc, hkeeps⟩ := run_to_completes hbusy hreset
  obtain ⟨u, hu, -, hcompl⟩ := step_of_completes hc
  exact ⟨k, t, u, hk, hrun, hc, hkeeps.latCmd, hkeeps.latA, hkeeps.latB, hkeeps.latK, hkeeps.latN, hu, hcompl.busy,
    hcompl.done⟩

/-- Settles O2: RESET is the next turn, and after it the core is idle. -/
theorem resetEventDiscardsTheCommand : Obligations.ResetEventDiscardsTheCommand := by
  unfold Obligations.ResetEventDiscardsTheCommand
  intro s rest hp hwait
  have hturn := State.turn_of_reset (State.completes_of_not_due hwait hp) hp
  exact ⟨_, step_of_stay hturn, rfl, rfl, rfl, rfl, rfl, rfl, rfl, rfl, State.completes_of_idle rfl, rfl, rfl⟩

end Sys2Proof.Machine
end

section
/-! PROOFS. The poll on DONE (R59, R217): while a command is in flight it goes on until COMPLETE; it ends after
a command that was issued, and never where none was. -/

namespace Sys2Proof.Machine

/-! ## Rounds of the poll (R217) -/

theorem step_pollDone {s : State} {rest : List HostAction} (hc : s.completes = false)
    (hp : s.pending = .waitDone :: rest) :
    step s = .next ((s.hostTurn (if s.status.done && !s.cmdLost then rest else .waitDone :: rest)).logRead
      s.status.word) := by
  rw [step_of_run (State.turn_of_waitDone hc hp), exec_rd]
  rfl

/-- DONE is 0, or the write the poll waits for was dropped: another round. -/
theorem step_pollDone_again {s : State} {rest : List HostAction} (hc : s.completes = false)
    (hp : s.pending = .waitDone :: rest) (hagain : (s.status.done && !s.cmdLost) = false) :
    step s = .next ((s.hostTurn (.waitDone :: rest)).logRead s.status.word) := by
  rw [step_pollDone hc hp, hagain]
  rfl

/-- DONE is 1 and the last write was not dropped: the poll ends. -/
theorem step_pollDone_end {s : State} {rest : List HostAction} (hc : s.completes = false)
    (hp : s.pending = .waitDone :: rest) (hdone : s.status.done = true) (hlost : s.cmdLost = false) :
    step s = .next ((s.hostTurn rest).logRead s.status.word) := by
  rw [step_pollDone hc hp, hdone, hlost]
  rfl

/-- A poll that goes on while a command is in flight is still pending right after its COMPLETE. -/
theorem run_pollDone_to_complete {s : State} {rest : List HostAction} (hbusy : s.status.busy = true)
    (hp : s.pending = .waitDone :: rest) (hagain : (s.status.done && !s.cmdLost) = false) :
    ∃ k t, run k s = .next t ∧ t.pending = .waitDone :: rest ∧ t.cmdLost = s.cmdLost ∧
      exec (decodeCommand s.latCmd) s.coreOnly = .next t.coreOnly := by
  induction hd : s.due generalizing s with
  | zero =>
    obtain ⟨t, ht, hexec, hcompl⟩ := step_of_completes (s.completes_iff.2 ⟨hbusy, .inl hd⟩)
    exact ⟨1, t, run_one ht, hcompl.pending.trans hp, by rw [hcompl.frame],
      exec_coreOnly (isCommand_decodeCommand _) hexec⟩
  | succ n ih =>
    have hc : s.completes = false := State.completes_of_not_due (fun _ => by omega) hp
    obtain ⟨k, t, hrun, hpt, hlost, hexec⟩ :=
      ih (s := (s.hostTurn (.waitDone :: rest)).logRead s.status.word) hbusy rfl hagain (by simp [hd])
    exact ⟨k + 1, t, (run_succ k (step_pollDone_again hc hp hagain)).trans hrun, hpt, hlost, hexec⟩

/-- A completion seen on the core's own fields leaves the registers of the completion. -/
theorem registers_of_exec_coreOnly {i : Instr} {s t u : State} (hi : isCommand i = true) (hs : exec i s = .next u)
    (ht : exec i s.coreOnly = .next t.coreOnly) : t.registers = u.registers := by
  have hcore : u.coreOnly = t.coreOnly := Host.Outcome.next.inj ((exec_coreOnly hi hs).symm.trans ht)
  rw [← t.registers_coreOnly, ← hcore, u.registers_coreOnly]

/-! ## Polls without an end (R217, I11) -/

/-- After a dropped CMD write the poll stays pending for ever. -/
theorem run_pollDone_of_lost {s : State} {rest : List HostAction} (hp : s.pending = .waitDone :: rest)
    (hlost : s.cmdLost = true) (k : Nat) : ∃ t, run k s = .next t ∧ t.pending = .waitDone :: rest := by
  induction k generalizing s with
  | zero => exact ⟨s, rfl, hp⟩
  | succ k ih =>
    cases hc : s.completes with
    | true =>
      obtain ⟨u, hu, -, hcompl⟩ := step_of_completes hc
      rw [run_succ k hu]
      exact ih (hcompl.pending.trans hp) (by rw [hcompl.frame]; exact hlost)
    | false =>
      rw [run_succ k (step_pollDone_again hc hp (by simp [hlost]))]
      exact ih rfl hlost

/-- With no command issued the poll stays pending for ever, and its reads change no register. -/
theorem run_pollDone_of_untouched {s : State} {rest : List HostAction} (hp : s.pending = .waitDone :: rest)
    (hidle : s.status.busy = false) (hdone : s.status.done = false) (k : Nat) :
    ∃ t, run k s = .next t ∧ t.pending = .waitDone :: rest ∧ t.registers = s.registers := by
  induction k generalizing s with
  | zero => exact ⟨s, rfl, hp, rfl⟩
  | succ k ih =>
    rw [run_succ k (step_pollDone_again (State.completes_of_idle hidle) hp (by simp [hdone]))]
    exact ih (s := (s.hostTurn (.waitDone :: rest)).logRead s.status.word) rfl hidle hdone

/-- A run that never leaves the host without a transaction has no end state (R103). -/
theorem endState_eq_none {s : State} (h : ∀ k, ∃ t, run k s = .next t ∧ t.hostDone = false) (k : Nat) :
    endState k s = none := by
  cases hend : endOfProgram k s with
  | none => rw [endState, hend]; rfl
  | some t =>
    obtain ⟨j, -, hrun, hdone, -⟩ := endOfProgram_spec hend
    obtain ⟨u, hrun', hgoing⟩ := h j
    cases hrun.symm.trans hrun'
    simp [hdone] at hgoing

theorem State.hostDone_of_waitDone {s : State} {rest : List HostAction} (hp : s.pending = .waitDone :: rest) :
    s.hostDone = false :=
  State.hostDone_of_cons hp (by simp)

/-! ## The obligations -/

/-- Settles O55: without a command DONE stays 0; after a dropped write the note makes every read ask for another round,
before and after the earlier command's COMPLETE. -/
theorem donePollWithoutACommandHangs : Obligations.DonePollWithoutACommandHangs := by
  unfold Obligations.DonePollWithoutACommandHangs
  refine ⟨fun s rest hp hidle hdone k => ?_, fun s v rest hp hbusy hdue => ?_⟩
  · have hrun := run_pollDone_of_untouched hp hidle hdone
    refine ⟨endState_eq_none (fun j => ?_) k, hrun k⟩
    obtain ⟨t, ht, hpt, -⟩ := hrun j
    exact ⟨t, ht, State.hostDone_of_waitDone hpt⟩
  · obtain ⟨a, hdrop, hpa, hlost, hcore⟩ := step_cmdWrite_of_busy hbusy hdue hp
    have hbusya : a.status.busy = true := (congrArg (fun u => u.status.busy) hcore).trans hbusy
    have hlat : a.latCmd = s.latCmd := (congrArg State.latCmd hcore :)
    have hhang (k : Nat) : ∃ t, run (1 + k) s = .next t ∧ t.pending = .waitDone :: rest := by
      rw [run_add 1 k (run_one hdrop)]
      exact run_pollDone_of_lost hpa hlost k
    refine ⟨hhang, ?_, endState_eq_none fun k => ?_⟩
    · obtain ⟨k, t, hrun, -, -, hexec⟩ := run_pollDone_to_complete hbusya hpa (by simp [hlost])
      obtain ⟨u, hu⟩ := exec_eq_next (decodeCommand s.latCmd) s
      rw [hlat, hcore] at hexec
      exact ⟨1 + k, t, u, (run_add 1 k (run_one hdrop)).trans hrun, hu,
        registers_of_exec_coreOnly (isCommand_decodeCommand _) hu hexec⟩
    · cases k with
      | zero => exact ⟨s, rfl, State.hostDone_of_cons hp (by simp [wrAction])⟩
      | succ k =>
        obtain ⟨t, ht, hpt⟩ := hhang k
        exact ⟨t, Nat.add_comm 1 k ▸ ht, State.hostDone_of_waitDone hpt⟩

/-- Settles O60: the poll goes on until COMPLETE of the issued command, and then its next read ends it. -/
theorem donePollAfterAnIssueEnds : Obligations.DonePollAfterAnIssueEnds := by
  unfold Obligations.DonePollAfterAnIssueEnds
  intro s v rest hp hidle
  obtain ⟨a, hissue, hpa, -, hlosta, hcore⟩ := step_cmdWrite_of_idle hidle hp
  obtain ⟨-, hlat, hstatus⟩ := fields_of_issueRegs hcore
  obtain ⟨k, t, hrun, hpt, hlost, hexec⟩ :=
    run_pollDone_to_complete (congrArg Status.busy hstatus) hpa (by simp [hstatus])
  have hi := isCommand_decodeCommand v
  rw [hlat, hcore] at hexec
  obtain ⟨hidlet, hdone⟩ := status_of_exec_coreOnly hi hexec
  have hend := step_pollDone_end (State.completes_of_idle hidlet) hpt hdone (hlost.trans hlosta)
  obtain ⟨u, hu⟩ := exec_eq_next (decodeCommand v) (s.issue v)
  exact ⟨k + 1 + 1, _, u, (run_succ _ hissue).trans ((run_add k 1 hrun).trans (run_one hend)), rfl, hidlet, hdone, hu,
    registers_of_exec_coreOnly hi hu hexec⟩

end Sys2Proof.Machine
end

section
/-! PROOFS. Host programs made of macros (R83, R103, R214, R215, R218): what is left of one at any moment, that it never
breaks the host's duties, and that its end state does not depend on the latencies. -/

namespace Sys2Proof.Machine

/-! ## What is left of a program of macros (R83) -/

/-- The host only writes, and after each CMD write it waits before it goes on. -/
inductive WaitsAfterIssue : List HostAction → Prop where
  | nil : WaitsAfterIssue []
  | write {r : Reg} {v : Word} {rest : List HostAction} (hr : r ≠ .cmd) (hrest : WaitsAfterIssue rest) :
      WaitsAfterIssue (wrAction r v :: rest)
  | issue {v : Word} {rest : List HostAction} (hrest : WaitsAfterIssue rest) :
      WaitsAfterIssue (wrAction .cmd v :: .waitBusy :: rest)

theorem WaitsAfterIssue.operands {ops : List (Reg × Word)} {rest : List HostAction} (hops : ∀ o ∈ ops, o.1 ≠ .cmd)
    (hrest : WaitsAfterIssue rest) : WaitsAfterIssue (operandActions ops ++ rest) := by
  induction ops with
  | nil => exact hrest
  | cons o ops ih =>
    obtain ⟨ho, hops⟩ := List.forall_mem_cons.1 hops
    exact .write ho (ih hops)

theorem waitsAfterIssue_macros {ps : List Pseudo} (hps : ∀ p ∈ ps, p.isMacro = true) :
    WaitsAfterIssue (ps.flatMap Pseudo.expand) := by
  induction ps with
  | nil => exact .nil
  | cons p ps ih =>
    obtain ⟨hp, hps⟩ := List.forall_mem_cons.1 hps
    obtain ⟨c, -, hexpand⟩ := Pseudo.expand_of_isMacro hp
    rw [List.flatMap_cons, hexpand, List.append_assoc]
    exact .operands p.operands_ne_cmd (.issue (ih hps))

theorem WaitsAfterIssue.eq_nil_of_all_isReset {as : List HostAction} (h : WaitsAfterIssue as)
    (hall : as.all HostAction.isReset = true) : as = [] := by
  cases h with
  | nil => rfl
  | write | issue => simp [wrAction, HostAction.isReset] at hall

/-- A moment in the run of a program of macros: the core is idle, or the host is at a WAIT. -/
def State.AtMacroProgram (s : State) : Prop :=
  (s.status.busy = false ∧ WaitsAfterIssue s.pending) ∨ ∃ rest, s.pending = .waitBusy :: rest ∧ WaitsAfterIssue rest

theorem State.AtMacroProgram.step {s t : State} (h : s.AtMacroProgram) (hs : step s = .next t) : t.AtMacroProgram := by
  obtain ⟨hidle, hw⟩ | ⟨rest, hp, hrest⟩ := h
  · generalize hp : s.pending = as at hw
    have hc := State.completes_of_idle hidle
    cases hw with
    | nil =>
      rw [step_of_stay (State.turn_of_nil hc hp)] at hs
      cases hs
      exact .inl ⟨hidle, hp ▸ .nil⟩
    | @write r v rest hr hrest =>
      rw [step_wrAction hc hp] at hs
      cases hs
      refine .inl ⟨?_, ?_⟩
      · rw [State.status_portWrite _ hr]
        exact hidle
      · rw [(State.portWrite_keeps_host _ r v).1]
        exact hrest
    | @issue v rest hrest =>
      obtain ⟨u, hu, hpu, -⟩ := step_cmdWrite_of_idle hidle hp
      cases hu.symm.trans hs
      exact .inr ⟨rest, hpu, hrest⟩
  · cases hc : s.completes with
    | true =>
      obtain ⟨u, hu, -, hcompl⟩ := step_of_completes hc
      cases hu.symm.trans hs
      exact .inr ⟨rest, hcompl.pending.trans hp, hrest⟩
    | false =>
      rw [step_wait hc hp] at hs
      cases hs
      cases hbusy : s.status.busy with
      | true => exact .inr ⟨rest, by simp, hrest⟩
      | false => exact .inl ⟨hbusy, by simpa using hrest⟩

/-! ## The host's duties (R214, R215) -/

theorem State.status_of_turn_run {s u : State} {i : Instr} (h : s.turn = .run i u) : u.status = s.status := by
  obtain ⟨-, hturn⟩ | ⟨-, x, rest, -, hturn⟩ | ⟨-, -, rest, hturn⟩ | ⟨-, rest, -, hturn⟩ | ⟨-, -, hturn⟩ :=
    s.turn_cases <;> cases hturn.symm.trans h <;> rfl

/-- An idle core drops no write and has no stale result. -/
theorem orderly_of_idle {s : State} (hidle : s.status.busy = false) :
    dropsCmdWrite s = false ∧ readsStale s = false := by
  have hturn {i : Instr} {u : State} (h : s.turn = .run i u) : u.status.busy = false := by
    rw [State.status_of_turn_run h, hidle]
  constructor
  · unfold dropsCmdWrite
    split
    · next h => exact hturn h
    · rfl
  · unfold readsStale
    split
    · next h => exact hturn h
    · next h => exact hturn h
    · rfl

/-- At a WAIT the next step is COMPLETE or a read of STATUS, whether the core is busy or not. -/
theorem orderly_of_waitBusy {s : State} {rest : List HostAction} (hp : s.pending = .waitBusy :: rest) :
    dropsCmdWrite s = false ∧ readsStale s = false := by
  cases hc : s.completes with
  | true =>
    have hi := isCommand_decodeCommand s.latCmd
    have hturn := State.turn_of_completes hc
    generalize decodeCommand s.latCmd = i at hi hturn
    cases i with
    | wr | rd => cases hi
    | _ => simp [dropsCmdWrite, readsStale, hturn]
  | false => simp [dropsCmdWrite, readsStale, State.turn_of_waitBusy hc hp]

theorem State.AtMacroProgram.orderly {s : State} (h : s.AtMacroProgram) :
    dropsCmdWrite s = false ∧ readsStale s = false := by
  obtain ⟨hidle, -⟩ | ⟨rest, hp, -⟩ := h
  · exact orderly_of_idle hidle
  · exact orderly_of_waitBusy hp

theorem orderlyRun_succ {s t : State} (k : Nat) (h : dropsCmdWrite s = false ∧ readsStale s = false)
    (hs : step s = .next t) : orderlyRun (k + 1) s = orderlyRun k t := by
  simp [orderlyRun, h, hs]

theorem State.AtMacroProgram.orderlyRun {s : State} (h : s.AtMacroProgram) (k : Nat) : orderlyRun k s = true := by
  induction k generalizing s with
  | zero => rfl
  | succ k ih =>
    obtain ⟨t, ht⟩ := step_eq_next s
    rw [orderlyRun_succ k h.orderly ht]
    exact ih (h.step ht)

/-! ## The end of a program of macros (R103) -/

/-- Where a program of macros has nothing left, its run has come to rest at its end. -/
theorem State.AtMacroProgram.endOfProgram {s t : State} {k : Nat} (h : s.AtMacroProgram) (hrun : run k s = .next t)
    (hpt : t.pending = []) : endOfProgram k s = some t := by
  induction k generalizing s with
  | zero =>
    cases hrun
    exact endOfProgram_of_hostDone 0 (State.hostDone_of_nil hpt)
  | succ k ih =>
    cases hd : s.hostDone with
    | false =>
      obtain ⟨u, hu⟩ := step_eq_next s
      rw [endOfProgram_succ k hd hu]
      exact ih (h.step hu) ((run_succ k hu).symm.trans hrun)
    | true =>
      obtain ⟨hidle, hw⟩ | ⟨rest, hp, -⟩ := id h
      · have hrest := step_of_stay (State.turn_of_nil (State.completes_of_idle hidle) (hw.eq_nil_of_all_isReset hd))
        exact endOfProgram_mono (ih h ((run_succ k hrest).symm.trans hrun)) (Nat.le_succ k)
      · simp [State.hostDone_of_cons hp] at hd

/-! ## States with the same registers (R103) -/

/-- STATUS back from the word a read returns (R23, R93). -/
def Status.ofWord (w : Word) : Status where
  busy := w.getLsbD 0
  done := w.getLsbD 1
  err := w.extractLsb' 2 3
  isgen := w.getLsbD 5

theorem Status.ofWord_word (st : Status) : Status.ofWord st.word = st := by
  obtain ⟨b, d, e, g⟩ := st
  revert b d e g
  decide

theorem State.registers_eq_iff {s s' : State} :
    s.registers = s'.registers ↔ ∀ r, s.portRead r = s'.portRead r := by
  constructor
  · intro h r
    have hmem : r ∈ [Reg.cmd, .status, .opa, .opb, .opk, .opn, .res, .cnt] := by cases r <;> decide
    exact List.map_inj_left.1 h r hmem
  · intro h
    exact List.map_congr_left fun r _ => h r

theorem byte_eq_of_setWidth_eq {a b : BitVec 8} (h : a.setWidth 16 = b.setWidth 16) : a = b := by
  simpa using congrArg (BitVec.setWidth 8) h

theorem State.status_eq_of_registers {s s' : State} (h : s.registers = s'.registers) : s.status = s'.status := by
  rw [← s.status.ofWord_word, ← s'.status.ofWord_word]
  exact congrArg Status.ofWord (registers_eq_iff.1 h .status)

/-- An issue overwrites the latches, so that all the core then holds is decided by the registers (R94). -/
theorem State.issueRegs_eq_of_registers {s s' : State} (h : s.registers = s'.registers) (v : Word) :
    s.coreOnly.issueRegs v = s'.coreOnly.issueRegs v := by
  have hread := registers_eq_iff.1 h
  have hopa : s.opa = s'.opa := byte_eq_of_setWidth_eq (hread .opa)
  have hopb : s.opb = s'.opb := byte_eq_of_setWidth_eq (hread .opb)
  have hres : s.res = s'.res := byte_eq_of_setWidth_eq (hread .res)
  have hopk : s.opk = s'.opk := hread .opk
  have hopn : s.opn = s'.opn := hread .opn
  have hcnt : s.cnt = s'.cnt := hread .cnt
  simp [State.coreOnly, State.issueRegs, State.status_eq_of_registers h, hopa, hopb, hres, hopk, hopn, hcnt]

theorem State.registers_portWrite_congr {s s' : State} (h : s.registers = s'.registers) {r : Reg} (hr : r ≠ .cmd)
    (v : Word) : (s.portWrite r v).registers = (s'.portWrite r v).registers := by
  rw [registers_eq_iff] at h ⊢
  intro r'
  by_cases heq : r = r'
  · subst heq
    apply BitVec.eq_of_toNat_eq
    rw [s.portRead_portWrite_self hr, s'.portRead_portWrite_self hr, h]
  · rw [s.portRead_portWrite_of_ne hr heq, s'.portRead_portWrite_of_ne hr heq, h]

theorem State.registers_writeOperands_congr {s s' : State} {ops : List (Reg × Word)} (hops : ∀ o ∈ ops, o.1 ≠ .cmd)
    (h : s.registers = s'.registers) : (s.writeOperands ops).registers = (s'.writeOperands ops).registers := by
  induction ops generalizing s s' with
  | nil => exact h
  | cons o ops ih =>
    obtain ⟨ho, hops⟩ := List.forall_mem_cons.1 hops
    exact ih hops (State.registers_portWrite_congr h ho o.2)

theorem State.coreOnly_writeOperands (s : State) {ops : List (Reg × Word)} (hops : ∀ o ∈ ops, o.1 ≠ .cmd) :
    (s.writeOperands ops).coreOnly = s.coreOnly.writeOperands ops := by
  induction ops generalizing s with
  | nil => rfl
  | cons o ops ih =>
    obtain ⟨ho, hops⟩ := List.forall_mem_cons.1 hops
    exact (ih _ hops).trans (congrArg (State.writeOperands · ops) (s.coreOnly_portWrite ho o.2))

/-- An issue keeps the results and the operand registers (R94). -/
theorem kept_of_issueRegs {s t : State} {v : Word} (h : t.coreOnly = s.coreOnly.issueRegs v) :
    t.res = s.res ∧ t.cnt = s.cnt ∧ t.opa = s.opa ∧ t.opb = s.opb ∧ t.opk = s.opk ∧ t.opn = s.opn :=
  ⟨(congrArg State.res h :), (congrArg State.cnt h :), (congrArg State.opa h :), (congrArg State.opb h :),
    (congrArg State.opk h :), (congrArg State.opn h :)⟩

/-! ## Two runs of one program of macros (R218) -/

/-- From idle states with the same registers the runs reach the end of an expansion with the same registers: its command
computes from what the registers held when it issued. -/
theorem reaches_macro_end {p : Pseudo} {s s' : State} {rest : List HostAction} (hmacro : p.isMacro = true)
    (hidle : s.status.busy = false) (hreg : s.registers = s'.registers) (hp : s.pending = p.expand ++ rest)
    (hp' : s'.pending = p.expand ++ rest) :
    ∃ t t', Reaches s t ∧ Reaches s' t' ∧ t.pending = rest ∧ t'.pending = rest ∧ t.status.busy = false ∧
      t.registers = t'.registers := by
  obtain ⟨c, -, hexpand⟩ := Pseudo.expand_of_isMacro hmacro
  rw [hexpand, List.append_assoc] at hp hp'
  have hops := p.operands_ne_cmd
  obtain ⟨t, hreach, hpt, hexec⟩ := reaches_expansion_end hops hidle hp
  obtain ⟨t', hreach', hpt', hexec'⟩ :=
    reaches_expansion_end hops (State.status_eq_of_registers hreg ▸ hidle) hp'
  have hissued : (s.coreOnly.writeOperands p.operands).issueRegs c.word =
      (s'.coreOnly.writeOperands p.operands).issueRegs c.word := by
    have h := State.issueRegs_eq_of_registers (State.registers_writeOperands_congr hops hreg) c.word
    rwa [s.coreOnly_writeOperands hops, s'.coreOnly_writeOperands hops] at h
  have hcore : t.coreOnly = t'.coreOnly := Host.Outcome.next.inj (hexec.symm.trans (hissued ▸ hexec'))
  exact ⟨t, t', hreach, hreach', hpt, hpt', (status_of_exec_coreOnly (isCommand_instr c) hexec).1,
    (congrArg State.registers hcore :)⟩

/-- So do the runs of a list of macros. -/
theorem reaches_macros_end {ps : List Pseudo} {s s' : State} (hps : ∀ p ∈ ps, p.isMacro = true)
    (hidle : s.status.busy = false) (hreg : s.registers = s'.registers) (hp : s.pending = ps.flatMap Pseudo.expand)
    (hp' : s'.pending = ps.flatMap Pseudo.expand) :
    ∃ t t', Reaches s t ∧ Reaches s' t' ∧ t.pending = [] ∧ t'.pending = [] ∧ t.status.busy = false ∧
      t.registers = t'.registers := by
  induction ps generalizing s s' with
  | nil => exact ⟨s, s', .refl s, .refl s', hp, hp', hidle, hreg⟩
  | cons p ps ih =>
    obtain ⟨hmacro, hps⟩ := List.forall_mem_cons.1 hps
    obtain ⟨u, u', hsu, hsu', hpu, hpu', hidleu, hregu⟩ := reaches_macro_end hmacro hidle hreg hp hp'
    obtain ⟨t, t', hut, hut', h⟩ := ih hps hidleu hregu hpu hpu'
    exact ⟨t, t', hsu.trans hut, hsu'.trans hut', h⟩

/-! ## The obligations -/

/-- Settles O59: at each moment of the run the core is idle or the host is at a WAIT. -/
theorem macroProgramsAreOrderly : Obligations.MacroProgramsAreOrderly := by
  unfold Obligations.MacroProgramsAreOrderly
  intro ps s hps hidle hp k
  have hat : s.AtMacroProgram := .inl ⟨hidle, hp ▸ waitsAfterIssue_macros hps⟩
  exact hat.orderlyRun k

/-- Settles O58: one expansion after another both runs end with the same registers; a bare issue is the last
transaction, so its program ends right after it. -/
theorem endStateDoesNotDependOnLatency : Obligations.EndStateDoesNotDependOnLatency := by
  unfold Obligations.EndStateDoesNotDependOnLatency
  refine ⟨fun ps s s' hps hidle hreg hp hp' => ?_, fun s v hidle hp => ?_⟩
  · have hw := waitsAfterIssue_macros hps
    have hidle' : s'.status.busy = false := State.status_eq_of_registers hreg ▸ hidle
    have hat : s.AtMacroProgram := .inl ⟨hidle, hp ▸ hw⟩
    have hat' : s'.AtMacroProgram := .inl ⟨hidle', hp' ▸ hw⟩
    obtain ⟨t, t', ⟨k, hrun⟩, ⟨k', hrun'⟩, hpt, hpt', hidlet, hregt⟩ := reaches_macros_end hps hidle hreg hp hp'
    have hend := hat.endOfProgram hrun hpt
    have hend' := hat'.endOfProgram hrun' hpt'
    exact ⟨k, k', t, t', hend, hend', hpt, hpt', hidlet, State.status_eq_of_registers hregt ▸ hidlet, hregt,
      by simp [endState, hend, hend', hregt]⟩
  · obtain ⟨t, hissue, hpt, -, -, hcore⟩ := step_cmdWrite_of_idle hidle hp
    obtain ⟨hcmd, -, hstatus⟩ := fields_of_issueRegs hcore
    have hend (k : Nat) (hk : 1 ≤ k) : endOfProgram k s = some t := by
      obtain ⟨m, rfl⟩ := Nat.exists_eq_add_of_le' hk
      rw [endOfProgram_succ m (State.hostDone_of_cons hp (by simp [wrAction])) hissue]
      exact endOfProgram_of_hostDone m (State.hostDone_of_nil hpt)
    obtain ⟨hres, hcnt, hopa, hopb, hopk, hopn⟩ := kept_of_issueRegs hcore
    exact ⟨t, hend, hcmd, congrArg Status.busy hstatus, congrArg Status.done hstatus, congrArg Status.err hstatus,
      (congrArg Status.isgen hstatus :), hres, hcnt, hopa, hopb, hopk, hopn⟩

end Sys2Proof.Machine
end
